-- ==== Sys2Proof/Word.lean ====
section
/-! DEFINITION. The byte, the byte sequence and the conversion of a number to one byte (00_scope.md R9, R10). -/

namespace Sys2Proof

/-- A byte: 8 bits, bit 7 the most significant (R9). -/
abbrev Byte := BitVec 8

/-- A byte sequence: a payload, a frame or a datagram, its length being part of it (R9, R15). -/
abbrev Bytes := List Byte

/-- `zext_8(v)`: a number below 256 as one byte (R10). -/
abbrev zext8 (v : Nat) : Byte := BitVec.ofNat 8 v

end Sys2Proof
end

