-- ==== Sys2Proof/Config.lean ====
section
/-! DEFINITION. The parameters of the block (00_scope.md R6), their constraints (70_reset_and_hazards.md R382 (a))
and the free values the spec leaves open. -/

namespace Sys2Proof

/-- The parameter `TextDec` (R6, R166): the default decoder, or a configured one, known by a number.
DESIGN CHOICE (A9): a configured decoder is an opaque function bent to the constraints of R166. -/
inductive TextDecSel where
  | standard
  | custom (k : Nat)
deriving DecidableEq, Repr

/-- The parameters of the block (R6). Nothing writes them (10_state.md R20, R48). -/
structure Cfg where
  /-- `GBN_MAX` -/
  gbnMax : Nat
  /-- `GBN_W` -/
  gbnW : Nat
  /-- `SR_MAX` -/
  srMax : Nat
  /-- `SR_W` -/
  srW : Nat
  /-- `T_SWN` -/
  tSwn : Nat
  /-- `T_ABP` -/
  tAbp : Nat
  /-- `T_PNA` -/
  tPna : Nat
  /-- `T_GBN` -/
  tGbn : Nat
  /-- `T_SR` -/
  tSr : Nat
  /-- `FRAME_MAX` -/
  frameMax : Nat
  /-- `TextDec` -/
  textDec : TextDecSel
deriving DecidableEq, Repr

/-- The configuration is an instance of this hardware (R6, R382 (a), D26). -/
def Cfg.valid (c : Cfg) : Bool :=
  decide (2 ≤ c.gbnMax) && decide (c.gbnMax ≤ 256) && decide (1 ≤ c.gbnW) && decide (c.gbnW ≤ c.gbnMax - 1) &&
  decide (2 ≤ c.srMax) && decide (c.srMax ≤ 256) && decide (1 ≤ c.srW) && decide (c.srW ≤ c.srMax / 2) &&
  decide (1 ≤ c.tSwn) && decide (1 ≤ c.tAbp) && decide (1 ≤ c.tPna) && decide (1 ≤ c.tGbn) && decide (1 ≤ c.tSr) &&
  decide (5 ≤ c.frameMax)

/-- The configuration of 95_test_vectors.md: `FRAME_MAX = 64`, `GBN_MAX = 16`, `GBN_W = 4`, `SR_MAX = 9`,
`SR_W = 4`, the default `TextDec`, and the timeouts of its programs P2, P3, P4, P6 and P7.
DESIGN CHOICE (A8): `State.reset` holds it. The open parameters have no value in the spec. -/
def Cfg.vectors : Cfg where
  gbnMax := 16
  gbnW := 4
  srMax := 9
  srW := 4
  tSwn := 2
  tAbp := 2
  tPna := 2
  tGbn := 3
  tSr := 2
  frameMax := 64
  textDec := .standard

/-- What the configured decoder number `k` does with text that is not well-formed: nothing is known of it (A9). -/
opaque Config.textDecFree : Nat → Bytes → Bytes

/-- What `tx` of an EMPTY register hands to the channel, the `n`-th time it happens: nothing, or some datagram.
The spec gives no value; only launch states that break 10_state.md R46 ask for it (A10). -/
opaque Config.emptyTx : Nat → Option Bytes

end Sys2Proof
end

