-- ==== Sys2Proof/Syntax.lean ====
section
/-! DEFINITION. The protocol units, the operations and frames (one constructor per row of spec/opcode_table.json),
and the two forms in which the agents offer them: a command on a port, a datagram at a unit's RX port. -/

namespace Sys2Proof

/-- The ten protocol units (00_scope.md R1). -/
inductive ProtUnit where
  | swns | swnr | abps | abpr | pnas | pnar | gbns | gbnr | srs | srr
deriving DecidableEq, Repr

/-- The agents that cause operations (00_scope.md R8, 60_exceptions.md R365). -/
inductive Agent where
  | host | channel | timer | tick
deriving DecidableEq, Repr

/-- The operand formats of command codes (30_encoding.md R112). -/
inductive Format where
  | op0 | op1 | opD | opSD | op4
deriving DecidableEq, Repr

/-- One constructor per row of spec/opcode_table.json: the 50 operations of 30_encoding.md R112, then the five
wire frames of R100, R101, R103, R104. A frame is a datagram standing at the RX port of a unit (A6): `u` is the unit
it has reached, `s` its sequence byte, `p` its payload, `c` its checksum byte as received. -/
inductive Instr where
  | crcClr
  | crcShift (b : BitVec 1)
  | crcByte (v : Byte)
  | crcAug
  | crcRead
  | crcCompute (d : Bytes)
  | crcVerify (d : Bytes)
  | frmEnc (p : Bytes)
  | frmEncs (q : Byte) (p : Bytes)
  | frmDec (d : Bytes)
  | frmDecs (d : Bytes)
  | winTest (low high modulus value : Nat)
  | swnsSend (p : Bytes)
  | swnsRx (d : Bytes)
  | swnsTmo
  | swnsTick
  | swnsStop
  | swnrRx (d : Bytes)
  | swnrStop
  | abpsSend (p : Bytes)
  | abpsRx (d : Bytes)
  | abpsTmo
  | abpsTick
  | abpsStop
  | abprRx (d : Bytes)
  | abprStop
  | pnasSend (p : Bytes)
  | pnasRx (d : Bytes)
  | pnasTmo
  | pnasTick
  | pnasStop
  | pnarRx (d : Bytes)
  | pnarStop
  | gbnsSend (p : Bytes)
  | gbnsRx (d : Bytes)
  | gbnsTmo
  | gbnsTick
  | gbnsStop
  | gbnsCansend
  | gbnrRx (d : Bytes)
  | gbnrStop
  | srsSend (p : Bytes)
  | srsRx (d : Bytes)
  | srsTmo (k : Nat)
  | srsTick
  | srsStop
  | srsCansend
  | srrRx (d : Bytes)
  | srrStop
  | sysReset
  | wireN (u : ProtUnit) (p : Bytes) (c : Byte)
  | wireS (u : ProtUnit) (q : Byte) (p : Bytes) (c : Byte)
  | nak0
  | ack (u : ProtUnit) (q : Byte) (c : Byte)
  | nak (q : Byte) (c : Byte)
deriving DecidableEq, Repr

/-- What an agent offers: a command (its code byte and operand bytes) at the port of an agent, or a datagram at the
RX port of a unit. The two encodings never mix (30_encoding.md R90). -/
inductive Offer where
  | command (by_ : Agent) (msg : Bytes)
  | datagram (u : ProtUnit) (d : Bytes)
deriving DecidableEq, Repr

/-- `"ACK"` (00_scope.md R9). -/
def textAck : Bytes := [0x41, 0x43, 0x4B]

/-- `"NAK"` (00_scope.md R9). -/
def textNak : Bytes := [0x4E, 0x41, 0x4B]

/-- The units whose frames carry no sequence byte, format `WIRE-N` (30_encoding.md R102). -/
def ProtUnit.isNakOnly : ProtUnit → Bool
  | .swns => true
  | .swnr => true
  | _ => false

/-- The units that receive `Ack(s)` frames (30_encoding.md R102; "used_by" of the table). -/
def ProtUnit.takesAcks : ProtUnit → Bool
  | .abps => true
  | .pnas => true
  | .gbns => true
  | .srs => true
  | _ => false

/-- The unit at the other end of the channel (00_scope.md R15, 70_reset_and_hazards.md R382 (b)). -/
def ProtUnit.peer : ProtUnit → ProtUnit
  | .swns => .swnr
  | .swnr => .swns
  | .abps => .abpr
  | .abpr => .abps
  | .pnas => .pnar
  | .pnar => .pnas
  | .gbns => .gbnr
  | .gbnr => .gbns
  | .srs => .srr
  | .srr => .srs

end Sys2Proof
end

