-- ==== Sys2Proof/WellFormed.lean ====
section
/-! DEFINITION. Which terms of `Instr` stand for something a port or the wire can carry: the form the encodings admit,
and the operand ranges of 30_encoding.md R113 under the configuration. -/

namespace Sys2Proof

/-- The form the encodings admit, whatever the configuration (30_encoding.md R102 to R104, R113): the numbers of
`WIN.TEST`, a slot number of one byte, and frames in the one constructor that stands for them at their unit. -/
def Instr.formed : Instr → Bool
  | .winTest low high modulus value =>
      decide (1 ≤ modulus) && decide (modulus ≤ 256) && decide (low < modulus) && decide (high < modulus) &&
      decide (value ≤ 255)
  | .srsTmo k => decide (k ≤ 255)
  | .wireN u p c => u.isNakOnly && !(decide (u = .swns) && decide (p = []) && decide (c = 0))
  | .wireS u _ p _ =>
      !u.isNakOnly && !(u.takesAcks && decide (p = textAck)) && !(decide (u = .pnas) && decide (p = textNak))
  | .ack u _ _ => u.takesAcks
  | _ => true

/-- The length of the datagram operand, where the operation has one; a frame is its own datagram. -/
def Instr.datagramLength : Instr → Option Nat
  | .frmDec d | .frmDecs d | .swnsRx d | .swnrRx d | .abpsRx d | .abprRx d | .pnasRx d | .pnarRx d
  | .gbnsRx d | .gbnrRx d | .srsRx d | .srrRx d => some d.length
  | .wireN _ p _ => some (p.length + 1)
  | .wireS _ _ p _ => some (p.length + 2)
  | .nak0 => some 1
  | .ack _ _ _ => some 5
  | .nak _ _ => some 5
  | _ => none

/-- The operand ranges that depend on the configuration (R113): a slot of `SRS.TMO` exists, a datagram is at most
`FRAME_MAX` bytes. A payload has no range here: one that is too long is answered `ERR_LEN`. -/
def Instr.inRange (cfg : Cfg) (i : Instr) : Bool :=
  (match i with
    | .srsTmo k => decide (k < cfg.srMax)
    | _ => true) &&
  (match i.datagramLength with
    | some n => decide (n ≤ cfg.frameMax)
    | none => true)

/-- A term that a port or the wire can carry: anything else "is not a command at all" (R113). -/
def WellFormed (cfg : Cfg) (i : Instr) : Bool :=
  i.formed && i.inRange cfg

end Sys2Proof
end

