-- ==== Sys2Proof/Machine/Operands.lean ====
section
/-! DEFINITION. The operand forms of commands: the table of command codes with the format and the issuing agent of each
(30_encoding.md R111, R112), and how the operand bytes of a message are read. -/

namespace Sys2Proof

/-- A row of the table of R112: code, format, issuing agent. -/
abbrev CommandRow := Nat × Format × Agent

/-- The rows of the Checksum Engine, the Frame Codec, the window helper and reset (R112). -/
def commandRowsHelpers : List CommandRow :=
  [ (0x00, .op0, .host), (0x01, .op1, .host), (0x02, .op1, .host), (0x03, .op0, .host), (0x04, .op0, .host),
    (0x05, .opD, .host), (0x06, .opD, .host), (0x10, .opD, .host), (0x11, .opSD, .host), (0x12, .opD, .host),
    (0x13, .opD, .host), (0x20, .op4, .host), (0xF0, .op0, .host) ]

/-- The rows of the stop-and-wait units (R112). -/
def commandRowsStopAndWait : List CommandRow :=
  [ (0x30, .opD, .host), (0x31, .opD, .channel), (0x32, .op0, .timer), (0x33, .op0, .tick), (0x34, .op0, .host),
    (0x41, .opD, .channel), (0x44, .op0, .host),
    (0x50, .opD, .host), (0x51, .opD, .channel), (0x52, .op0, .timer), (0x53, .op0, .tick), (0x54, .op0, .host),
    (0x61, .opD, .channel), (0x64, .op0, .host),
    (0x70, .opD, .host), (0x71, .opD, .channel), (0x72, .op0, .timer), (0x73, .op0, .tick), (0x74, .op0, .host),
    (0x81, .opD, .channel), (0x84, .op0, .host) ]

/-- The rows of the window units (R112). -/
def commandRowsWindow : List CommandRow :=
  [ (0x90, .opD, .host), (0x91, .opD, .channel), (0x92, .op0, .timer), (0x93, .op0, .tick), (0x94, .op0, .host),
    (0x95, .op0, .host), (0xA1, .opD, .channel), (0xA4, .op0, .host),
    (0xB0, .opD, .host), (0xB1, .opD, .channel), (0xB2, .op1, .timer), (0xB3, .op0, .tick), (0xB4, .op0, .host),
    (0xB5, .op0, .host), (0xC1, .opD, .channel), (0xC4, .op0, .host) ]

/-- The complete table of R112. -/
def commandTable : List CommandRow :=
  List.append commandRowsHelpers (List.append commandRowsStopAndWait commandRowsWindow)

/-- The row of a code in the table, none for a reserved code (R114). -/
def rowOf (op : Byte) : Option (Format × Agent) :=
  commandTable.lookup op.toNat

/-- The agent whose port carries a code (R365); the host port is where a reserved code is answered (R114). -/
def issuerOf (op : Byte) : Agent :=
  match rowOf op with
  | some (_, a) => a
  | none => .host

/-- How many scalar operand bytes a format has. -/
def Format.scalars : Format → Nat
  | .op0 => 0
  | .op1 => 1
  | .opD => 0
  | .opSD => 1
  | .op4 => 4

/-- The modulus of `WIN.TEST` as one byte: 0 stands for 256. DESIGN CHOICE (A5): R110 leaves the operands'
serialisation open and 95_test_vectors.md says that 256 does not fit the byte of its notation. -/
def modulusOfByte (v : Byte) : Nat :=
  if v = 0 then 256 else v.toNat

/-- The inverse of `modulusOfByte` on 1 .. 256. -/
def byteOfModulus (m : Nat) : Byte :=
  zext8 m

/-- The bit operand of `CRC.SHIFT`: "A bit is 0 or 1" (R113). -/
def bitOfByte (v : Byte) : Option (BitVec 1) :=
  if v = 0 then some 0 else if v = 1 then some 1 else none

/-- The bytes of the `n`-byte number `w`, the most significant first: a row wider than a byte is numbered in the
table with its first byte leftmost ("bytes in transmission order, first byte leftmost"). -/
def bytesOfNumber : Nat → Nat → Bytes
  | 0, _ => []
  | n + 1, w => zext8 (w / 256 ^ n) :: bytesOfNumber n w

end Sys2Proof
end

