-- ==== Sys2Proof/Decode.lean ====
section
/-! DEFINITION. The decoders of the two encodings (30_encoding.md R90), total on any bytes and rejecting by name, and
after them the encoder. -/

namespace Sys2Proof

/-- Why a message is no operation. -/
inductive DecodeReject where
  /-- the message has no code byte -/
  | noCode
  /-- the operand bytes are not of the code's format, or a bit operand is neither 0 nor 1 (R112, R113) -/
  | operandShape
  /-- the code is not one this port carries (60_exceptions.md R365) -/
  | wrongPort
deriving DecidableEq, Repr

/-- What a decoder reads from a message. -/
inductive Decoded where
  | instr (i : Instr)
  /-- a reserved command code on the host port (R114) -/
  | reserved (op : Byte)
  | reject (r : DecodeReject)
deriving DecidableEq, Repr

/-- The codes of format `OP0` (R112). -/
def decodeOp0 (op : Nat) : Option Instr :=
  match op with
  | 0x00 => some .crcClr
  | 0x03 => some .crcAug
  | 0x04 => some .crcRead
  | 0x32 => some .swnsTmo
  | 0x33 => some .swnsTick
  | 0x34 => some .swnsStop
  | 0x44 => some .swnrStop
  | 0x52 => some .abpsTmo
  | 0x53 => some .abpsTick
  | 0x54 => some .abpsStop
  | 0x64 => some .abprStop
  | 0x72 => some .pnasTmo
  | 0x73 => some .pnasTick
  | 0x74 => some .pnasStop
  | 0x84 => some .pnarStop
  | 0x92 => some .gbnsTmo
  | 0x93 => some .gbnsTick
  | 0x94 => some .gbnsStop
  | 0x95 => some .gbnsCansend
  | 0xA4 => some .gbnrStop
  | 0xB3 => some .srsTick
  | 0xB4 => some .srsStop
  | 0xB5 => some .srsCansend
  | 0xC4 => some .srrStop
  | 0xF0 => some .sysReset
  | _ => none

/-- The codes of format `OP1` (R112). -/
def decodeOp1 (op : Nat) (v : Byte) : Option Instr :=
  match op with
  | 0x01 => (bitOfByte v).map .crcShift
  | 0x02 => some (.crcByte v)
  | 0xB2 => some (.srsTmo v.toNat)
  | _ => none

/-- The codes of format `OPD` (R112). -/
def decodeOpD (op : Nat) (d : Bytes) : Option Instr :=
  match op with
  | 0x05 => some (.crcCompute d)
  | 0x06 => some (.crcVerify d)
  | 0x10 => some (.frmEnc d)
  | 0x12 => some (.frmDec d)
  | 0x13 => some (.frmDecs d)
  | 0x30 => some (.swnsSend d)
  | 0x31 => some (.swnsRx d)
  | 0x41 => some (.swnrRx d)
  | 0x50 => some (.abpsSend d)
  | 0x51 => some (.abpsRx d)
  | 0x61 => some (.abprRx d)
  | 0x70 => some (.pnasSend d)
  | 0x71 => some (.pnasRx d)
  | 0x81 => some (.pnarRx d)
  | 0x90 => some (.gbnsSend d)
  | 0x91 => some (.gbnsRx d)
  | 0xA1 => some (.gbnrRx d)
  | 0xB0 => some (.srsSend d)
  | 0xB1 => some (.srsRx d)
  | 0xC1 => some (.srrRx d)
  | _ => none

/-- The code of format `OPSD` (R112). -/
def decodeOpSD (op : Nat) (q : Byte) (p : Bytes) : Option Instr :=
  match op with
  | 0x11 => some (.frmEncs q p)
  | _ => none

/-- The code of format `OP4` (R112), its operands in range (R113). -/
def decodeOp4 (op : Nat) (low high modulus value : Byte) : Option Instr :=
  match op with
  | 0x20 =>
      if low.toNat < modulusOfByte modulus ∧ high.toNat < modulusOfByte modulus then
        some (.winTest low.toNat high.toNat (modulusOfByte modulus) value.toNat)
      else none
  | _ => none

/-- The operands of a code of the table, read in its format: none where they are not of that form. -/
def decodeOperands (f : Format) (op : Nat) (args : Bytes) : Option Instr :=
  match f, args with
  | .op0, [] => decodeOp0 op
  | .op1, [v] => decodeOp1 op v
  | .opD, d => decodeOpD op d
  | .opSD, q :: p => decodeOpSD op q p
  | .op4, [low, high, modulus, value] => decodeOp4 op low high modulus value
  | _, _ => none

/-- The decoder of commands (R110 to R114, R365): the code byte, then the operands, to the end of the message (A5). -/
def decodeCommand (a : Agent) (msg : Bytes) : Decoded :=
  match msg with
  | [] => .reject .noCode
  | op :: args =>
      match rowOf op with
      | none => if a = .host then .reserved op else .reject .wrongPort
      | some (f, issuer) =>
          if a = issuer then
            match decodeOperands f op.toNat args with
            | some i => .instr i
            | none => .reject .operandShape
          else .reject .wrongPort

/-- The `RX` operation of a unit (60_exceptions.md R345: "served as `u.RX d`"). -/
def rxInstr (u : ProtUnit) (d : Bytes) : Instr :=
  match u with
  | .swns => .swnsRx d
  | .swnr => .swnrRx d
  | .abps => .abpsRx d
  | .abpr => .abprRx d
  | .pnas => .pnasRx d
  | .pnar => .pnarRx d
  | .gbns => .gbnsRx d
  | .gbnr => .gbnrRx d
  | .srs => .srsRx d
  | .srr => .srrRx d

/-- A datagram in format `WIRE-N` (30_encoding.md R100, R103, R105); `last` is its checksum byte. -/
def frameN (u : ProtUnit) (p : Bytes) (last : Byte) : Instr :=
  if u = .swns ∧ p = [] ∧ last = 0 then .nak0 else .wireN u p last

/-- A datagram in format `WIRE-S` (30_encoding.md R101, R104, R105). Senders classify, receivers never do
(70_reset_and_hazards.md R397); here only by layout, the meaning classifies by decoded text. -/
def frameS (u : ProtUnit) (q : Byte) (p : Bytes) (c : Byte) : Instr :=
  if u.takesAcks ∧ p = textAck then .ack u q c
  else if u = .pnas ∧ p = textNak then .nak q c
  else .wireS u q p c

/-- The decoder of datagrams at the RX port of unit `u` (R91, R100 to R105): which format applies is fixed by the unit
(R102). A datagram shorter than its format's minimum is no frame (R107) and is the unit's `RX` of those bytes. -/
def decodeDatagram (u : ProtUnit) (d : Bytes) : Instr :=
  if u.isNakOnly then
    match d.getLast? with
    | none => rxInstr u d
    | some c => frameN u d.dropLast c
  else
    match d with
    | q :: b :: rest => frameS u q (b :: rest).dropLast ((b :: rest).getLast?.getD 0)
    | _ => rxInstr u d

/-- The decoder: total on every offer. -/
def decode (o : Offer) : Decoded :=
  match o with
  | .command a msg => decodeCommand a msg
  | .datagram u d => .instr (decodeDatagram u d)

/-! ## The encoder -/

/-- The command code of an operation (R112); the frames have none. -/
def Instr.code : Instr → Option Byte
  | .crcClr => some 0x00
  | .crcShift _ => some 0x01
  | .crcByte _ => some 0x02
  | .crcAug => some 0x03
  | .crcRead => some 0x04
  | .crcCompute _ => some 0x05
  | .crcVerify _ => some 0x06
  | .frmEnc _ => some 0x10
  | .frmEncs _ _ => some 0x11
  | .frmDec _ => some 0x12
  | .frmDecs _ => some 0x13
  | .winTest _ _ _ _ => some 0x20
  | .swnsSend _ => some 0x30
  | .swnsRx _ => some 0x31
  | .swnsTmo => some 0x32
  | .swnsTick => some 0x33
  | .swnsStop => some 0x34
  | .swnrRx _ => some 0x41
  | .swnrStop => some 0x44
  | .abpsSend _ => some 0x50
  | .abpsRx _ => some 0x51
  | .abpsTmo => some 0x52
  | .abpsTick => some 0x53
  | .abpsStop => some 0x54
  | .abprRx _ => some 0x61
  | .abprStop => some 0x64
  | .pnasSend _ => some 0x70
  | .pnasRx _ => some 0x71
  | .pnasTmo => some 0x72
  | .pnasTick => some 0x73
  | .pnasStop => some 0x74
  | .pnarRx _ => some 0x81
  | .pnarStop => some 0x84
  | .gbnsSend _ => some 0x90
  | .gbnsRx _ => some 0x91
  | .gbnsTmo => some 0x92
  | .gbnsTick => some 0x93
  | .gbnsStop => some 0x94
  | .gbnsCansend => some 0x95
  | .gbnrRx _ => some 0xA1
  | .gbnrStop => some 0xA4
  | .srsSend _ => some 0xB0
  | .srsRx _ => some 0xB1
  | .srsTmo _ => some 0xB2
  | .srsTick => some 0xB3
  | .srsStop => some 0xB4
  | .srsCansend => some 0xB5
  | .srrRx _ => some 0xC1
  | .srrStop => some 0xC4
  | .sysReset => some 0xF0
  | .wireN _ _ _ => none
  | .wireS _ _ _ _ => none
  | .nak0 => none
  | .ack _ _ _ => none
  | .nak _ _ => none

/-- The operand bytes of an operation, in the format of its code (R112). -/
def Instr.operandBytes : Instr → Bytes
  | .crcShift b => [b.setWidth 8]
  | .crcByte v => [v]
  | .crcCompute d | .crcVerify d | .frmEnc d | .frmDec d | .frmDecs d => d
  | .frmEncs q p => q :: p
  | .winTest low high modulus value => [zext8 low, zext8 high, byteOfModulus modulus, zext8 value]
  | .swnsSend d | .swnsRx d | .swnrRx d | .abpsSend d | .abpsRx d | .abprRx d | .pnasSend d | .pnasRx d
  | .pnarRx d | .gbnsSend d | .gbnsRx d | .gbnrRx d | .srsSend d | .srsRx d | .srrRx d => d
  | .srsTmo k => [zext8 k]
  | _ => []

/-- The unit a frame has reached and its bytes in transmission order (R100, R101, R103, R104); none for a command. -/
def Instr.frame : Instr → Option (ProtUnit × Bytes)
  | .wireN u p c => some (u, p ++ [c])
  | .wireS u q p c => some (u, q :: (p ++ [c]))
  | .nak0 => some (.swns, [0x00])
  | .ack u q c => some (u, q :: (textAck ++ [c]))
  | .nak q c => some (.pnas, q :: (textNak ++ [c]))
  | _ => none

/-- The encoder: an operation as a command on the port of its agent, a frame as the datagram it is. -/
def encode (i : Instr) : Offer :=
  match i.frame with
  | some (u, d) => .datagram u d
  | none =>
      match i.code with
      | some op => .command (issuerOf op) (op :: i.operandBytes)
      | none => .command .host []

/-! ## Words of spec/opcode_table.json -/

/-- The offer whose first `nbits` bits are `w`, numbered as the table numbers them, every later bit 0. A row of one
byte is a command code: scalar operand bytes are zeros and a byte sequence operand is empty. A wider row is a frame,
its first byte leftmost; the word does not say at which unit it stands, and `PNAS` receives every sequenced kind (A7). -/
def offerOfWord (nbits w : Nat) : Offer :=
  if nbits ≤ 8 then
    let op := zext8 w
    let n := match rowOf op with
      | some (f, _) => f.scalars
      | none => 0
    .command (issuerOf op) (op :: List.replicate n 0)
  else .datagram .pnas (bytesOfNumber ((nbits + 7) / 8) w)

/-- The instruction the decoder reads from a table word; none where it refuses. -/
def decodeTableWord (nbits w : Nat) : Option Instr :=
  match decode (offerOfWord nbits w) with
  | .instr i => some i
  | _ => none

end Sys2Proof
end

