-- ==== Sys2Proof/Machine/State.lean ====
section
/-! DEFINITION. The state of the machine as plain data: every register of 10_state.md R41, the channel (R42), and the
model's own fields (configuration, agenda, outputs, count of free values); the reasons a step stops; reset. -/

namespace Sys2Proof.Machine

/-- The status codes of 00_scope.md R13. -/
inductive Status where
  | ok | errClosed | errFault | errLen | errIllegal
deriving DecidableEq, Repr

/-- What `ret` hands to the host that issued the operation (00_scope.md R10 and the rule of each operation). -/
inductive RetVal where
  | status (x : Status)
  | byte (v : Byte)
  | truth (b : Bool)
  | frame (d : Bytes)
  /-- `FRM.DEC`: validity and decoded text (41_frame_codec.md R174) -/
  | decoded (valid : Bool) (text : Option Bytes)
  /-- `FRM.DECS`: validity, sequence number and decoded text (41_frame_codec.md R175) -/
  | decodedSeq (valid : Bool) (q : Option Byte) (text : Option Bytes)
deriving DecidableEq, Repr

/-- An output of an operation (00_scope.md R10), with the unit whose port it leaves on. -/
inductive Output where
  | tx (u : ProtUnit) (d : Bytes)
  | deliver (u : ProtUnit) (p : Bytes)
  | done (u : ProtUnit) (x : Status)
  | ret (v : RetVal)
deriving DecidableEq, Repr

/-- What the arbiter may serve (60_exceptions.md R345, R347): an offer of an agent; the channel delivering the `k`-th
datagram in flight, with one bit inverted or none, or losing it (R360); the reset input (R380). -/
inductive Event where
  | offer (o : Offer)
  | deliver (k : Nat) (flip : Option Nat)
  | lose (k : Nat)
  | resetInput
deriving DecidableEq, Repr

/-- A timer: `armed` and the down counter `cnt` (10_state.md R29, 60_exceptions.md R350). -/
structure Timer where
  armed : Bool
  cnt : Nat
deriving DecidableEq, Repr

/-- The status registers of a protocol unit (10_state.md R26). -/
structure Flags where
  closed : Bool
  fault : Bool
  cause : BitVec 2
deriving DecidableEq, Repr

/-- A slot array (10_state.md R30): the slots that are not empty, by sequence number, strictly rising. A slot that is
not listed is `empty`. -/
abbrev SlotArray := List (Nat × Bytes)

/-- The timers of `SRS` (10_state.md R29): those that are not `(0, 0)`, by sequence number, strictly rising. -/
abbrev TimerArray := List (Nat × Timer)

/-- `SWNS` (10_state.md R31). -/
structure NakSender where
  state : BitVec 2
  txbuf : Option Bytes
  timer : Timer
  flags : Flags
deriving DecidableEq, Repr

/-- `SWNR` (10_state.md R32). -/
structure NakReceiver where
  flags : Flags
deriving DecidableEq, Repr

/-- `ABPS` and `PNAS` (10_state.md R33, R35). -/
structure AltSender where
  state : BitVec 2
  seq : BitVec 1
  txbuf : Option Bytes
  timer : Timer
  flags : Flags
deriving DecidableEq, Repr

/-- `ABPR` and `PNAR` (10_state.md R34, R36). -/
structure AltReceiver where
  expected : BitVec 1
  flags : Flags
deriving DecidableEq, Repr

/-- `GBNS` (10_state.md R37); `frames` is `unacknowledgedFrames`. -/
structure GbnSender where
  oldestUnacked : Nat
  nextToSend : Nat
  frames : SlotArray
  timer : Timer
  flags : Flags
deriving DecidableEq, Repr

/-- `GBNR` (10_state.md R38). -/
structure GbnReceiver where
  expected : Nat
  lastAck : Option Bytes
  flags : Flags
deriving DecidableEq, Repr

/-- `SRS` (10_state.md R39); `frames` is `unacknowledgedFrames`. -/
structure SrSender where
  oldestUnacked : Nat
  nextToSend : Nat
  frames : SlotArray
  timers : TimerArray
  flags : Flags
deriving DecidableEq, Repr

/-- `SRR` (10_state.md R40); `reorder` is `reorderBuffer`, `acks` is `pendingAcks`. -/
structure SrReceiver where
  oldestExpected : Nat
  reorder : SlotArray
  acks : SlotArray
  flags : Flags
deriving DecidableEq, Repr

/-- The state: the units of the block (10_state.md R20, R41), the datagrams in the channel with the unit each travels
to (R42, 60_exceptions.md R360), and the model's own fields. -/
structure State where
  /-- `CRC.reg` (10_state.md R27) -/
  crc : Byte
  swns : NakSender
  swnr : NakReceiver
  abps : AltSender
  abpr : AltReceiver
  pnas : AltSender
  pnar : AltReceiver
  gbns : GbnSender
  gbnr : GbnReceiver
  srs : SrSender
  srr : SrReceiver
  /-- the datagrams in flight, oldest first -/
  wire : List (ProtUnit × Bytes)
  /-- the model's own: the parameters of 00_scope.md R6; no step changes them -/
  cfg : Cfg
  /-- the model's own: what the agents offer, in the order the arbiter serves it (ARB, 60_exceptions.md R347) -/
  agenda : List Event
  /-- the model's own: the outputs emitted so far, oldest first -/
  outs : List Output
  /-- the model's own: how many free values have been drawn (A10) -/
  draws : Nat
deriving DecidableEq, Repr

/-- Why the machine stops with a fault. The fatal fault of 60_exceptions.md R340 is not here: it is a next state. -/
inductive Fault where
  /-- An operation named a slot that does not exist (20_memory.md R60: `0 <= i < M`). Raised by the meaning of
  `SRS.TMO i` for `i >= SR_MAX`; the step never gets so far (`Refusal.operandRange`). SAFE: the hardware has no such
  command (30_encoding.md R113). -/
  | noSuchSlot
deriving DecidableEq, Repr

/-- Why the machine refuses. -/
inductive Refusal where
  /-- An instruction without a meaning; raised by no arm of `exec`. SAFE. -/
  | notModelled (mnemonic : String)
  /-- A message on a port that is no operation: no code byte, operand bytes of another format, or a code this port
  does not carry (30_encoding.md R113, 60_exceptions.md R365). Raised by `step`. SAFE: "not a command at all". -/
  | notACommand (r : DecodeReject)
  /-- An operand outside its range under the configuration: a slot at or above `SR_MAX`, a datagram longer than
  `FRAME_MAX` (30_encoding.md R113, 60_exceptions.md R362). Raised by `step`. SAFE: "the port cannot carry it". -/
  | operandRange
deriving DecidableEq, Repr

/-- The tag `WAIT_SEND` (10_state.md R24). -/
abbrev waitSend : BitVec 2 := 0b01#2

/-- The tag `WAIT_ACK` (10_state.md R24). -/
abbrev waitAck : BitVec 2 := 0b10#2

/-- An idle timer: `armed = 0`, `cnt = 0` (60_exceptions.md R350, R352). -/
abbrev Timer.idle : Timer := ⟨false, 0⟩

/-- Open, no fault, no cause (10_state.md R47). -/
abbrev Flags.clear : Flags := ⟨false, false, 0⟩

/-- The machine after reset (10_state.md R47, 70_reset_and_hazards.md R380). The configuration, the empty channel, the
empty agenda, the empty output list and the count 0 are the model's (A1, A8, A10, A13, A14). -/
def State.reset : State where
  crc := 0x00
  swns := { state := waitSend, txbuf := none, timer := .idle, flags := .clear }
  swnr := { flags := .clear }
  abps := { state := waitSend, seq := 0, txbuf := none, timer := .idle, flags := .clear }
  abpr := { expected := 0, flags := .clear }
  pnas := { state := waitSend, seq := 0, txbuf := none, timer := .idle, flags := .clear }
  pnar := { expected := 0, flags := .clear }
  gbns := { oldestUnacked := 0, nextToSend := 0, frames := [], timer := .idle, flags := .clear }
  gbnr := { expected := 0, lastAck := none, flags := .clear }
  srs := { oldestUnacked := 0, nextToSend := 0, frames := [], timers := [], flags := .clear }
  srr := { oldestExpected := 0, reorder := [], acks := [], flags := .clear }
  wire := []
  cfg := Cfg.vectors
  agenda := []
  outs := []
  draws := 0

end Sys2Proof.Machine
end

