-- ==== Sys2Proof/Machine/Flags.lean ====
section
/-! DEFINITION. The status registers of the units, the predicate `Wf`, the conditions of a timer, and the numbers of
the status codes. -/

namespace Sys2Proof.Machine

/-- The status registers of a unit (10_state.md R26). -/
def State.flags (s : State) : ProtUnit → Flags
  | .swns => s.swns.flags
  | .swnr => s.swnr.flags
  | .abps => s.abps.flags
  | .abpr => s.abpr.flags
  | .pnas => s.pnas.flags
  | .pnar => s.pnar.flags
  | .gbns => s.gbns.flags
  | .gbnr => s.gbnr.flags
  | .srs => s.srs.flags
  | .srr => s.srr.flags

/-- Writing the status registers of a unit. -/
def State.setFlags (s : State) (u : ProtUnit) (f : Flags) : State :=
  match u with
  | .swns => { s with swns := { s.swns with flags := f } }
  | .swnr => { s with swnr := { s.swnr with flags := f } }
  | .abps => { s with abps := { s.abps with flags := f } }
  | .abpr => { s with abpr := { s.abpr with flags := f } }
  | .pnas => { s with pnas := { s.pnas with flags := f } }
  | .pnar => { s with pnar := { s.pnar with flags := f } }
  | .gbns => { s with gbns := { s.gbns with flags := f } }
  | .gbnr => { s with gbnr := { s.gbnr with flags := f } }
  | .srs => { s with srs := { s.srs with flags := f } }
  | .srr => { s with srr := { s.srr with flags := f } }

/-- The FSM state register of the three units that have one (10_state.md R24, R25). -/
def State.tag (s : State) : ProtUnit → Option (BitVec 2)
  | .swns => some s.swns.state
  | .abps => some s.abps.state
  | .pnas => some s.pnas.state
  | _ => none

/-- `state` is `01` or `10` (10_state.md R24). -/
def legalTag (t : BitVec 2) : Bool :=
  decide (t = waitSend) || decide (t = waitAck)

/-- The predicate `Wf(u)` of 60_exceptions.md R340: the registers of the unit hold legal codes. -/
def State.wf (s : State) : ProtUnit → Bool
  | .swns => legalTag s.swns.state
  | .abps => legalTag s.abps.state
  | .pnas => legalTag s.pnas.state
  | .gbns => decide (s.gbns.oldestUnacked < s.cfg.gbnMax) && decide (s.gbns.nextToSend < s.cfg.gbnMax)
  | .gbnr => decide (s.gbnr.expected < s.cfg.gbnMax)
  | .srs => decide (s.srs.oldestUnacked < s.cfg.srMax) && decide (s.srs.nextToSend < s.cfg.srMax)
  | .srr => decide (s.srr.oldestExpected < s.cfg.srMax)
  | .swnr => true
  | .abpr => true
  | .pnar => true

/-- The level output `fault` of a unit (10_state.md R26, 60_exceptions.md R368). -/
def State.faultOutput (s : State) (u : ProtUnit) : Bool :=
  (s.flags u).fault

/-- The level output `closed` of a unit (60_exceptions.md R368). -/
def State.closedOutput (s : State) (u : ProtUnit) : Bool :=
  (s.flags u).closed

/-- `BADSTATE` (60_exceptions.md R342). -/
def badState : BitVec 2 := 1

/-- A timer counts (60_exceptions.md R350). -/
def Timer.running (t : Timer) : Bool :=
  t.armed && decide (0 < t.cnt)

/-- A timer has expired and waits to be served (60_exceptions.md R350, R354). -/
def Timer.expired (t : Timer) : Bool :=
  t.armed && decide (t.cnt = 0)

/-- The number of a status code (00_scope.md R13). -/
def Status.code : Status → Nat
  | .ok => 0
  | .errClosed => 1
  | .errFault => 2
  | .errLen => 3
  | .errIllegal => 4

end Sys2Proof.Machine
end

