-- ==== Sys2Proof/Machine/Ops.lean ====
section
/-! DEFINITION. The named operations over memory and registers: slot arrays, timers, outputs, taking the fatal fault and
coming back from it (reset), and the common prologue of 60_exceptions.md R341. -/

namespace Sys2Proof.Machine

/-! ## Slot arrays (20_memory.md R60) -/

/-- The entry of index `i` in a list of entries. -/
def readEntry {α : Type} : List (Nat × α) → Nat → Option α
  | [], _ => none
  | (k, v) :: rest, i => if k = i then some v else readEntry rest i

/-- The list with the entry of index `i` set, the indices kept rising. -/
def insertEntry {α : Type} : List (Nat × α) → Nat → α → List (Nat × α)
  | [], i, v => [(i, v)]
  | (k, w) :: rest, i, v =>
      if i < k then (i, v) :: (k, w) :: rest
      else if k = i then (i, v) :: rest
      else (k, w) :: insertEntry rest i v

/-- The list without the entry of index `i`. -/
def eraseEntry {α : Type} : List (Nat × α) → Nat → List (Nat × α)
  | [], _ => []
  | (k, w) :: rest, i => if k = i then eraseEntry rest i else (k, w) :: eraseEntry rest i

/-- `MemRead(A, i)`: `empty` (none) or the byte sequence held (R60). A slot that is not listed reads as `empty`. -/
def memRead (a : SlotArray) (i : Nat) : Option Bytes :=
  readEntry a i

/-- `MemWrite(A, i, v)`: the whole slot is replaced (R60). Writing `empty` removes the entry. -/
def memWrite (a : SlotArray) (i : Nat) (v : Option Bytes) : SlotArray :=
  match v with
  | some b => insertEntry a i b
  | none => eraseEntry a i

/-- Timer `i` of an array; one that is not listed is idle. -/
def timerAt (a : TimerArray) (i : Nat) : Timer :=
  (readEntry a i).getD .idle

/-- Writing timer `i` of an array. -/
def setTimerAt (a : TimerArray) (i : Nat) (t : Timer) : TimerArray :=
  if t = .idle then eraseEntry a i else insertEntry a i t

/-- The indices of a list of entries rise strictly and stay below `m`: no two entries for a slot, no slot that does not
exist (A11). -/
def entriesRise {α : Type} (m : Nat) : List (Nat × α) → Bool
  | [] => true
  | [(k, _)] => decide (k < m)
  | (k, _) :: (j, w) :: rest => decide (k < j) && entriesRise m ((j, w) :: rest)

/-- The canonical form of the block's memory: in each array the indices rise strictly and name slots that exist, and no
timer is listed that is idle (an empty slot cannot be listed). -/
def Memory.wf (s : State) : Bool :=
  entriesRise s.cfg.gbnMax s.gbns.frames && entriesRise s.cfg.srMax s.srs.frames &&
  entriesRise s.cfg.srMax s.srs.timers && s.srs.timers.all (fun e => decide (e.2 ≠ .idle)) &&
  entriesRise s.cfg.srMax s.srr.reorder && entriesRise s.cfg.srMax s.srr.acks

/-! ## Timers (60_exceptions.md R350 to R354) -/

/-- `TimerStart(t, T)` (R351): what the timer held before does not matter. -/
def timerStart (T : Nat) : Timer :=
  ⟨true, T⟩

/-- `TimerCancel(t)` (R352). -/
def timerCancel : Timer :=
  .idle

/-- One tick of one timer (R353): a running timer counts down, an idle or expired one stays. -/
def Timer.tick (t : Timer) : Timer :=
  if t.running then { t with cnt := t.cnt - 1 } else t

/-- `TimerCancel(every timer of u)` (R343, R356). -/
def State.cancelTimers (s : State) (u : ProtUnit) : State :=
  match u with
  | .swns => { s with swns := { s.swns with timer := timerCancel } }
  | .abps => { s with abps := { s.abps with timer := timerCancel } }
  | .pnas => { s with pnas := { s.pnas with timer := timerCancel } }
  | .gbns => { s with gbns := { s.gbns with timer := timerCancel } }
  | .srs => { s with srs := { s.srs with timers := [] } }
  | _ => s

/-! ## Outputs (00_scope.md R10) -/

/-- Emit one output. -/
def State.emit (s : State) (o : Output) : State :=
  { s with outs := s.outs ++ [o] }

/-- `ret(v)`. -/
def State.ret (s : State) (v : RetVal) : State :=
  s.emit (.ret v)

/-- `ret` of a status (R13). -/
def State.answer (s : State) (x : Status) : State :=
  s.ret (.status x)

/-- `tx(d)` by unit `u`: always succeeds at once (60_exceptions.md R361); the channel takes the datagram and holds it
for the unit's peer (R360, R363). -/
def State.tx (s : State) (u : ProtUnit) (d : Bytes) : State :=
  { s.emit (.tx u d) with wire := s.wire ++ [(u.peer, d)] }

/-- `tx` of a register that may be `empty`. Of an empty register (a launch state that breaks 10_state.md R46) the spec
does not say what is handed over: a free value, within `FRAME_MAX` (A10). -/
def State.txRegister (s : State) (u : ProtUnit) (b : Option Bytes) : State :=
  match b with
  | some f => s.tx u f
  | none =>
      let s := { s with draws := s.draws + 1 }
      match Config.emptyTx (s.draws - 1) with
      | some f => s.tx u (f.take s.cfg.frameMax)
      | none => s

/-- `tx` of a slot, which transmits nothing when the slot is empty ("if f /= empty: tx(f)", R264, R294). -/
def State.txSlot (s : State) (u : ProtUnit) (b : Option Bytes) : State :=
  match b with
  | some f => s.tx u f
  | none => s

/-! ## The fatal fault (60_exceptions.md R340 to R344) -/

/-- Fault entry, `raise Fault(c)` in unit `u` (R343): the flag, the cause, every timer of `u` cancelled; every other
register keeps its value, nothing is emitted. -/
def State.takeFault (s : State) (u : ProtUnit) (c : BitVec 2) : State :=
  (s.setFlags u { s.flags u with fault := true, cause := c }).cancelTimers u

/-- Every register of the block at its reset value (70_reset_and_hazards.md R380); it is the only way back from the
fault (60_exceptions.md R344). The channel is not touched (R392), nor the configuration (10_state.md R48). -/
def State.resetBlock (s : State) : State :=
  { State.reset with wire := s.wire, cfg := s.cfg, agenda := s.agenda, outs := s.outs, draws := s.draws }

/-! ## The common prologue (60_exceptions.md R341) -/

/-- A host operation (`SEND`, `CANSEND`) of unit `u` with its enabling condition: the five tests in order. A held
operation is no step (00_scope.md R12). -/
def hostOperation (u : ProtUnit) (enabled : Bool) (body : State → State) (s : State) :
    Host.Outcome State Fault Refusal :=
  if (s.flags u).fault then .next (s.answer .errFault)
  else if !s.wf u then .next ((s.takeFault u badState).answer .errFault)
  else if (s.flags u).closed then .next (s.answer .errClosed)
  else if enabled then .next (body s)
  else .next s

/-- An operation of another agent (`RX`, `TMO`, `TICK`) of unit `u` with its enabling condition. One that is not
enabled is no step; one that finds an illegal code takes the fault, an `RX` then having consumed its datagram. -/
def eventOperation (u : ProtUnit) (enabled : Bool) (body : State → State) (s : State) :
    Host.Outcome State Fault Refusal :=
  if (s.flags u).fault || (s.flags u).closed then .next s
  else if !s.wf u then .next (s.takeFault u badState)
  else if enabled then .next (body s)
  else .next s

/-- A host operation of unit `u` is accepted: it is held only in an open, healthy unit whose enabling condition is
false (R341 step 4). -/
def hostAccepts (u : ProtUnit) (enabled : Bool) (s : State) : Bool :=
  (s.flags u).fault || !s.wf u || (s.flags u).closed || enabled

/-- An operation of another agent is accepted (R341, second list). -/
def eventAccepts (u : ProtUnit) (enabled : Bool) (s : State) : Bool :=
  !((s.flags u).fault || (s.flags u).closed) && (!s.wf u || enabled)

end Sys2Proof.Machine
end

