-- ==== Sys2Proof/Machine/Crc.lean ====
section
/-! DEFINITION. The Checksum Engine (40_crc.md): the pure functions `Step`, `StepByte`, `Residue`, `Compute`, `Verify`
and the seven `CRC` operations. They have no prologue and are always enabled (R130). -/

namespace Sys2Proof.Machine

/-- The low 8 bits of the generator `100000111` (00_scope.md R2). -/
def crcPoly : Byte := 0x07

/-- `Step(r, b)` (R132): the bit leaving the register, shift left by one with `b` entering at bit 0, and the generator
exclusive-ored in when the bit that left was 1. -/
def crcStep (r : Byte) (b : BitVec 1) : Byte :=
  let t := (r <<< 1) ||| b.setWidth 8
  if r.getLsbD 7 then t ^^^ crcPoly else t

/-- `v[k:k]` (00_scope.md R9). -/
def bitAt (v : Byte) (k : Nat) : BitVec 1 :=
  v.extractLsb' k 1

/-- `StepByte(r, v)` (R133): eight steps, bit 7 first (20_memory.md R62). -/
def crcStepByte (r v : Byte) : Byte :=
  [7, 6, 5, 4, 3, 2, 1, 0].foldl (fun r k => crcStep r (bitAt v k)) r

/-- `Residue(d)` (R137). -/
def crcResidue (d : Bytes) : Byte :=
  d.foldl crcStepByte 0x00

/-- `Compute(d)` (R136): the residue, then the eight appended zero bits. -/
def crcCompute (d : Bytes) : Byte :=
  crcStepByte (crcResidue d) 0x00

/-- `Verify(d)` (R137). -/
def crcVerify (d : Bytes) : Bool :=
  decide (crcResidue d = 0x00)

/-- One turn of the inner loop of `ComputeDirect` (R142). -/
def crcDirectShift (r : Byte) : Byte :=
  if r.getLsbD 7 then (r <<< 1) ^^^ crcPoly else r <<< 1

/-- `ComputeDirect(d)` (R142), the byte-at-a-time form. -/
def crcComputeDirect (d : Bytes) : Byte :=
  d.foldl (fun r v => (List.range 8).foldl (fun r _ => crcDirectShift r) (r ^^^ v)) 0x00

/-- Writing `CRC.reg` (10_state.md R27). -/
def State.setCrc (s : State) (v : Byte) : State :=
  { s with crc := v }

/-- `CRC.CLR` (R131). -/
def execCrcClr (s : State) : Host.Outcome State Fault Refusal :=
  .next ((s.setCrc 0x00).answer .ok)

/-- `CRC.SHIFT b` (R132). -/
def execCrcShift (b : BitVec 1) (s : State) : Host.Outcome State Fault Refusal :=
  .next ((s.setCrc (crcStep s.crc b)).answer .ok)

/-- `CRC.BYTE v` (R133). -/
def execCrcByte (v : Byte) (s : State) : Host.Outcome State Fault Refusal :=
  .next ((s.setCrc (crcStepByte s.crc v)).answer .ok)

/-- `CRC.AUG` (R134). -/
def execCrcAug (s : State) : Host.Outcome State Fault Refusal :=
  .next ((s.setCrc (crcStepByte s.crc 0x00)).answer .ok)

/-- `CRC.READ` (R135). -/
def execCrcRead (s : State) : Host.Outcome State Fault Refusal :=
  .next (s.ret (.byte s.crc))

/-- `CRC.COMPUTE d` (R136): the checksum stays in the register. -/
def execCrcCompute (d : Bytes) (s : State) : Host.Outcome State Fault Refusal :=
  .next ((s.setCrc (crcCompute d)).ret (.byte (crcCompute d)))

/-- `CRC.VERIFY d` (R137): the residue stays in the register. -/
def execCrcVerify (d : Bytes) (s : State) : Host.Outcome State Fault Refusal :=
  .next ((s.setCrc (crcResidue d)).ret (.truth (crcVerify d)))

end Sys2Proof.Machine
end

