-- ==== Sys2Proof/Machine/Frame.lean ====
section
/-! DEFINITION. The Frame Codec (41_frame_codec.md): the pure functions the protocol units use and the four `FRM`
operations. The codec is stateless and always enabled (R160). -/

namespace Sys2Proof.Machine

/-! ## Encoding (R161, R169) -/

/-- `Encode(none, p)`, format `WIRE-N`. -/
def encodeN (p : Bytes) : Bytes :=
  p ++ [crcCompute p]

/-- `Encode(s, p)`, format `WIRE-S`. -/
def encodeS (q : Byte) (p : Bytes) : Bytes :=
  q :: p ++ [crcCompute (q :: p)]

/-- `Ack(s)` (R169, 30_encoding.md R104). -/
def ackFrame (q : Byte) : Bytes :=
  encodeS q textAck

/-- `Nak(s)` (R169, 30_encoding.md R104). -/
def nakFrame (q : Byte) : Bytes :=
  encodeS q textNak

/-- `NAK0` (R169, 30_encoding.md R103). -/
def nak0Frame : Bytes :=
  [0x00]

/-! ## Taking a datagram apart (R163, R164) -/

/-- `ValidN(d)`. -/
def validN (d : Bytes) : Bool :=
  decide (1 ≤ d.length) && crcVerify d

/-- `ValidS(d)`. -/
def validS (d : Bytes) : Bool :=
  decide (2 ≤ d.length) && crcVerify d

/-- `PayloadN(d) = d[0 .. len(d)-1)`. -/
def payloadN (d : Bytes) : Bytes :=
  d.dropLast

/-- `SeqOf(d) = d[0]`; read only where the length test has passed. -/
def seqOf (d : Bytes) : Byte :=
  d.headD 0x00

/-- `PayloadS(d) = d[1 .. len(d)-1)`. -/
def payloadS (d : Bytes) : Bytes :=
  d.tail.dropLast

/-! ## The tolerant text decoder (R166, R167) -/

/-- `lo <= v <= hi`. -/
def byteIn (lo hi v : Byte) : Bool :=
  decide (lo.toNat ≤ v.toNat) && decide (v.toNat ≤ hi.toNat)

/-- A continuation byte `80 .. BF`. -/
def isCont (v : Byte) : Bool :=
  byteIn 0x80 0xBF v

/-- The range the table of R167 gives for the second byte after the first byte `a` of a sequence of three. -/
def secondOfThree (a b : Byte) : Bool :=
  if a = 0xE0 then byteIn 0xA0 0xBF b
  else if byteIn 0xE1 0xEC a then isCont b
  else if a = 0xED then byteIn 0x80 0x9F b
  else if byteIn 0xEE 0xEF a then isCont b
  else false

/-- The range the table of R167 gives for the second byte after the first byte `a` of a sequence of four. -/
def secondOfFour (a b : Byte) : Bool :=
  if a = 0xF0 then byteIn 0x90 0xBF b
  else if byteIn 0xF1 0xF3 a then isCont b
  else if a = 0xF4 then byteIn 0x80 0x8F b
  else false

/-- The row of four bytes in the table of R167. -/
def wfFour (a : Byte) (rest : Bytes) : Bool :=
  match rest with
  | b :: c :: d :: _ => secondOfFour a b && isCont c && isCont d
  | _ => false

/-- The rows of three bytes in the table of R167. -/
def wfThree (a : Byte) (rest : Bytes) : Bool :=
  match rest with
  | b :: c :: _ => secondOfThree a b && isCont c
  | _ => false

/-- The row of two bytes in the table of R167. -/
def wfTwo (a : Byte) (rest : Bytes) : Bool :=
  match rest with
  | b :: _ => byteIn 0xC2 0xDF a && isCont b
  | _ => false

/-- `WfLen`: the length of the well-formed UTF-8 sequence the bytes start with, 0 if none does (R167). -/
def wfLen (b : Bytes) : Nat :=
  match b with
  | [] => 0
  | a :: rest =>
      if byteIn 0x00 0x7F a then 1
      else if wfTwo a rest then 2
      else if wfThree a rest then 3
      else if wfFour a rest then 4
      else 0

/-- The scan of R166: `keep` bytes of the well-formed sequence last found are still to be copied; then the next
sequence is copied, or one byte is dropped. -/
def textScan : Nat → Bytes → Bytes
  | _, [] => []
  | keep + 1, a :: rest => a :: textScan keep rest
  | 0, a :: rest =>
      match wfLen (a :: rest) with
      | 0 => textScan 0 rest
      | n + 1 => a :: textScan n rest

/-- The default `TextDec` of R166. -/
def textDecStandard (b : Bytes) : Bytes :=
  textScan 0 b

/-- The bytes are well-formed UTF-8: the scan of R166 drops nothing. -/
def isUtf8 (b : Bytes) : Bool :=
  decide (textDecStandard b = b)

/-- `TextDec` as configured (R166): the default, or any function that is the identity on well-formed UTF-8 and never
lengthens its input, of which nothing else is known (A9). -/
def textDec (t : TextDecSel) (b : Bytes) : Bytes :=
  match t with
  | .standard => textDecStandard b
  | .custom k => if isUtf8 b then b else (Config.textDecFree k b).take b.length

/-! ## Classification (R168) -/

/-- `IsAck(d)`: by decoded text and nothing else. -/
def isAck (t : TextDecSel) (d : Bytes) : Bool :=
  validS d && decide (textDec t (payloadS d) = textAck)

/-- `IsNak(d)`. No operation rule tests it: a `PNAS` takes every reply that is not an `ACK` alike (43 R231). -/
def isNak (t : TextDecSel) (d : Bytes) : Bool :=
  validS d && decide (textDec t (payloadS d) = textNak)

/-! ## The operations -/

/-- `FRM.ENC p` (R172). -/
def execFrmEnc (p : Bytes) (s : State) : Host.Outcome State Fault Refusal :=
  .next (if p.length > s.cfg.frameMax - 1 then s.answer .errLen else s.ret (.frame (encodeN p)))

/-- `FRM.ENCS s, p` (R173). -/
def execFrmEncs (q : Byte) (p : Bytes) (s : State) : Host.Outcome State Fault Refusal :=
  .next (if p.length > s.cfg.frameMax - 2 then s.answer .errLen else s.ret (.frame (encodeS q p)))

/-- `FRM.DEC d` (R174): the text is returned also when the checksum fails. -/
def execFrmDec (d : Bytes) (s : State) : Host.Outcome State Fault Refusal :=
  .next (if d.length < 1 then s.ret (.decoded false none)
    else s.ret (.decoded (validN d) (some (textDec s.cfg.textDec (payloadN d)))))

/-- `FRM.DECS d` (R175). -/
def execFrmDecs (d : Bytes) (s : State) : Host.Outcome State Fault Refusal :=
  .next (if d.length < 2 then s.ret (.decodedSeq false none none)
    else s.ret (.decodedSeq (validS d) (some (seqOf d)) (some (textDec s.cfg.textDec (payloadS d)))))

end Sys2Proof.Machine
end

