-- ==== Sys2Proof/Machine/Window.lean ====
section
/-! DEFINITION. Modulo-N sequence arithmetic and the window-membership test (42_window_arith.md), and `WIN.TEST`. -/

namespace Sys2Proof.Machine

/-- `Inc(x, m)` (R190); sums are exact numbers. -/
def seqInc (x m : Nat) : Nat :=
  (x + 1) % m

/-- `Add(x, k, m)` (R190). -/
def seqAdd (x k m : Nat) : Nat :=
  (x + k) % m

/-- `Sub(x, k, m)` (R190); `k mod m` is below `m`, so it never goes below zero. -/
def seqSub (x k m : Nat) : Nat :=
  (x + m - k % m) % m

/-- `Dist(a, b, m)` (R190), for `a` below `m`. -/
def seqDist (a b m : Nat) : Nat :=
  (b + m - a) % m

/-- `InWindow(low, high, m, v)` (R191, R194, R195). -/
def inWindow (low high m v : Nat) : Bool :=
  if v ≥ m then false
  else if low < high then decide (low ≤ v) && decide (v < high)
  else decide (v ≥ low) || decide (v < high)

/-- `WIN.TEST low, high, modulus, value` (R192). -/
def execWinTest (low high modulus value : Nat) (s : State) : Host.Outcome State Fault Refusal :=
  .next (s.ret (.truth (inWindow low high modulus value)))

end Sys2Proof.Machine
end

