-- ==== Sys2Proof/Machine/StopAndWait.lean ====
section
/-! DEFINITION. The stop-and-wait senders and receivers (43_stop_and_wait.md): `SEND`, `RX` and `TMO` of `SWNS`, `ABPS`,
`PNAS` and `RX` of `SWNR`, `ABPR`, `PNAR`. -/

namespace Sys2Proof.Machine

/-! ## Enabling conditions -/

/-- A stop-and-wait sender accepts `SEND` in `WAIT_SEND` (R211, R220, R230). -/
def idleTag (t : BitVec 2) : Bool :=
  decide (t = waitSend)

/-- A stop-and-wait sender accepts `RX` in `WAIT_ACK` (R210, R212, R221, R231). -/
def waitingTag (t : BitVec 2) : Bool :=
  decide (t = waitAck)

/-! ## Shared moves of the senders -/

/-- A frame is kept for retransmission, the timer started, `WAIT_ACK` entered (R220, R230). -/
def AltSender.load (a : AltSender) (f : Bytes) (T : Nat) : AltSender :=
  { a with txbuf := some f, timer := timerStart T, state := waitAck }

/-- The send in progress is done: the timer cancelled, the bit toggled, `WAIT_SEND` entered (R221, R231). -/
def AltSender.advance (a : AltSender) : AltSender :=
  { a with timer := timerCancel, seq := 1 - a.seq, state := waitSend }

/-- The timer started again, nothing else changed (R222, R231, R232). -/
def AltSender.restart (a : AltSender) (T : Nat) : AltSender :=
  { a with timer := timerStart T }

/-- The one-bit sequence number as the byte `00` or `01` (30_encoding.md R115). -/
def seqByte (b : BitVec 1) : Byte :=
  b.setWidth 8

/-! ## NAK-only -/

/-- `SWNS.SEND p` (R211). -/
def execSwnsSend (p : Bytes) (s : State) : Host.Outcome State Fault Refusal :=
  hostOperation .swns (idleTag s.swns.state) (fun s =>
    if p.length > s.cfg.frameMax - 1 then s.answer .errLen
    else
      let f := encodeN p
      let s := { s with swns := { s.swns with
        txbuf := some f, timer := timerStart s.cfg.tSwn, state := waitAck } }
      (s.tx .swns f).answer .ok) s

/-- `SWNS.RX d` (R212): whatever the datagram holds, the same frame is transmitted again. -/
def execSwnsRx (_d : Bytes) (s : State) : Host.Outcome State Fault Refusal :=
  eventOperation .swns (waitingTag s.swns.state) (fun s =>
    let s := s.txRegister .swns s.swns.txbuf
    { s with swns := { s.swns with timer := timerStart s.cfg.tSwn } }) s

/-- `SWNS.TMO` (R213): silence is success. -/
def execSwnsTmo (s : State) : Host.Outcome State Fault Refusal :=
  eventOperation .swns s.swns.timer.expired (fun s =>
    let s := { s with swns := { s.swns with timer := timerCancel, state := waitSend } }
    s.emit (.done .swns .ok)) s

/-- `SWNR.RX d` (R214). -/
def execSwnrRx (d : Bytes) (s : State) : Host.Outcome State Fault Refusal :=
  eventOperation .swnr true (fun s =>
    if validN d then s.emit (.deliver .swnr (textDec s.cfg.textDec (payloadN d)))
    else s.tx .swnr nak0Frame) s

/-! ## Alternating-bit -/

/-- `ABPS.SEND p` (R220). -/
def execAbpsSend (p : Bytes) (s : State) : Host.Outcome State Fault Refusal :=
  hostOperation .abps (idleTag s.abps.state) (fun s =>
    if p.length > s.cfg.frameMax - 2 then s.answer .errLen
    else
      let f := encodeS (seqByte s.abps.seq) p
      let s := { s with abps := s.abps.load f s.cfg.tAbp }
      (s.tx .abps f).answer .ok) s

/-- `ABPS.RX d` (R221): anything but the expected `ACK` is ignored, the timer keeps counting. -/
def execAbpsRx (d : Bytes) (s : State) : Host.Outcome State Fault Refusal :=
  eventOperation .abps (waitingTag s.abps.state) (fun s =>
    if isAck s.cfg.textDec d && decide (seqOf d = seqByte s.abps.seq) then
      let s := { s with abps := s.abps.advance }
      s.emit (.done .abps .ok)
    else s) s

/-- `ABPS.TMO` (R222). -/
def execAbpsTmo (s : State) : Host.Outcome State Fault Refusal :=
  eventOperation .abps s.abps.timer.expired (fun s =>
    let s := s.txRegister .abps s.abps.txbuf
    { s with abps := s.abps.restart s.cfg.tAbp }) s

/-- `ABPR.RX d` (R223): deliver, then transmit (D39). -/
def execAbprRx (d : Bytes) (s : State) : Host.Outcome State Fault Refusal :=
  eventOperation .abpr true (fun s =>
    if validS d && decide (seqOf d = seqByte s.abpr.expected) then
      let e := s.abpr.expected
      let s := s.emit (.deliver .abpr (textDec s.cfg.textDec (payloadS d)))
      let s := s.tx .abpr (ackFrame (seqByte e))
      { s with abpr := { s.abpr with expected := 1 - e } }
    else s.tx .abpr (ackFrame (seqByte (1 - s.abpr.expected)))) s

/-! ## Positive and negative acknowledgment -/

/-- `PNAS.SEND p` (R230). -/
def execPnasSend (p : Bytes) (s : State) : Host.Outcome State Fault Refusal :=
  hostOperation .pnas (idleTag s.pnas.state) (fun s =>
    if p.length > s.cfg.frameMax - 2 then s.answer .errLen
    else
      let f := encodeS (seqByte s.pnas.seq) p
      let s := { s with pnas := s.pnas.load f s.cfg.tPna }
      (s.tx .pnas f).answer .ok) s

/-- `PNAS.RX d` (R231): the sequence byte of the reply is not compared; anything but an `ACK` retransmits at once. -/
def execPnasRx (d : Bytes) (s : State) : Host.Outcome State Fault Refusal :=
  eventOperation .pnas (waitingTag s.pnas.state) (fun s =>
    if isAck s.cfg.textDec d then
      let s := { s with pnas := s.pnas.advance }
      s.emit (.done .pnas .ok)
    else
      let s := s.txRegister .pnas s.pnas.txbuf
      { s with pnas := s.pnas.restart s.cfg.tPna }) s

/-- `PNAS.TMO` (R232). -/
def execPnasTmo (s : State) : Host.Outcome State Fault Refusal :=
  eventOperation .pnas s.pnas.timer.expired (fun s =>
    let s := s.txRegister .pnas s.pnas.txbuf
    { s with pnas := s.pnas.restart s.cfg.tPna }) s

/-- `PNAR.RX d` (R233): the checksum is tested before the sequence number (60_exceptions.md R348). -/
def execPnarRx (d : Bytes) (s : State) : Host.Outcome State Fault Refusal :=
  eventOperation .pnar true (fun s =>
    if !validS d then s.tx .pnar (nakFrame (seqByte s.pnar.expected))
    else if seqOf d = seqByte s.pnar.expected then
      let e := s.pnar.expected
      let s := s.emit (.deliver .pnar (textDec s.cfg.textDec (payloadS d)))
      let s := s.tx .pnar (ackFrame (seqByte e))
      { s with pnar := { s.pnar with expected := 1 - e } }
    else s.tx .pnar (ackFrame (seqOf d))) s

end Sys2Proof.Machine
end

