-- ==== Sys2Proof/Machine/GoBackN.lean ====
section
/-! DEFINITION. The Go-Back-N sender and receiver (44_go_back_n.md). -/

namespace Sys2Proof.Machine

/-- `GbnCanSend` (R261). -/
def gbnCanSend (s : State) : Bool :=
  inWindow s.gbns.oldestUnacked (seqAdd s.gbns.oldestUnacked s.cfg.gbnW s.cfg.gbnMax) s.cfg.gbnMax s.gbns.nextToSend

/-- The clearing loop of R263: clear slot `i`, stop after slot `q`, else go on with the next number modulo `m`.
`fuel` bounds the turns; from legal registers `m` turns pass every number. -/
def clearThrough (m q : Nat) : Nat → Nat → SlotArray → SlotArray
  | 0, _, a => a
  | fuel + 1, i, a =>
      let a := memWrite a i none
      if i = q then a else clearThrough m q fuel (seqInc i m) a

/-- The frames of the slots `i`, `i+1`, ... before `stop`, in that order, empty slots skipped (the loop of R264).
`fuel` bounds the turns; from legal registers `m` turns pass every number. -/
def framesFrom (m stop : Nat) (a : SlotArray) : Nat → Nat → List Bytes
  | 0, _ => []
  | fuel + 1, i =>
      if i = stop then []
      else (memRead a i).toList ++ framesFrom m stop a fuel (seqInc i m)

/-- Transmit frames in order. -/
def State.txAll (s : State) (u : ProtUnit) (fs : List Bytes) : State :=
  fs.foldl (fun s f => s.tx u f) s

/-- `GBNS.CANSEND` (R261). -/
def execGbnsCansend (s : State) : Host.Outcome State Fault Refusal :=
  hostOperation .gbns true (fun s => s.ret (.truth (gbnCanSend s))) s

/-- `GBNS.SEND p` (R262). -/
def execGbnsSend (p : Bytes) (s : State) : Host.Outcome State Fault Refusal :=
  hostOperation .gbns (gbnCanSend s) (fun s =>
    if p.length > s.cfg.frameMax - 2 then s.answer .errLen
    else
      let g := s.gbns
      let f := encodeS (zext8 g.nextToSend) p
      let s := { s with gbns := { g with
        frames := memWrite g.frames g.nextToSend (some f),
        nextToSend := seqInc g.nextToSend s.cfg.gbnMax,
        timer := if g.oldestUnacked = g.nextToSend then timerStart s.cfg.tGbn else g.timer } }
      (s.tx .gbns f).answer .ok) s

/-- The acknowledgment of `q`, in flight (R263): the slots from `oldestUnacked` through `q` cleared, `oldestUnacked`
past `q`, the timer cancelled when nothing is in flight any more, else restarted. -/
def GbnSender.acknowledge (g : GbnSender) (q m T : Nat) : GbnSender :=
  { g with
    frames := clearThrough m q m g.oldestUnacked g.frames,
    oldestUnacked := seqInc q m,
    timer := if seqInc q m = g.nextToSend then timerCancel else timerStart T }

/-- `GBNS.RX d` (R263): cumulative, applied only to a number in flight (90_conflicts.md C6). -/
def execGbnsRx (d : Bytes) (s : State) : Host.Outcome State Fault Refusal :=
  eventOperation .gbns true (fun s =>
    let q := (seqOf d).toNat
    if isAck s.cfg.textDec d && decide (q < s.cfg.gbnMax) && (memRead s.gbns.frames q).isSome then
      { s with gbns := s.gbns.acknowledge q s.cfg.gbnMax s.cfg.tGbn }
    else s) s

/-- `GBNS.TMO` (R264). -/
def execGbnsTmo (s : State) : Host.Outcome State Fault Refusal :=
  eventOperation .gbns s.gbns.timer.expired (fun s =>
    let g := s.gbns
    let s := { s with gbns := { g with timer := timerStart s.cfg.tGbn } }
    s.txAll .gbns (framesFrom s.cfg.gbnMax g.nextToSend g.frames s.cfg.gbnMax g.oldestUnacked)) s

/-- `GBNR.RX d` (R265). -/
def execGbnrRx (d : Bytes) (s : State) : Host.Outcome State Fault Refusal :=
  eventOperation .gbnr true (fun s =>
    if validS d && decide ((seqOf d).toNat = s.gbnr.expected) then
      let a := ackFrame (zext8 s.gbnr.expected)
      let s := s.emit (.deliver .gbnr (textDec s.cfg.textDec (payloadS d)))
      let s := s.tx .gbnr a
      { s with gbnr := { s.gbnr with lastAck := some a, expected := seqInc s.gbnr.expected s.cfg.gbnMax } }
    else s.txSlot .gbnr s.gbnr.lastAck) s

end Sys2Proof.Machine
end

