-- ==== Sys2Proof/Machine/SelectiveRepeat.lean ====
section
/-! DEFINITION. The Selective Repeat sender and receiver (45_selective_repeat.md). -/

namespace Sys2Proof.Machine

/-- `SrCanSend` (R291). -/
def srCanSend (s : State) : Bool :=
  inWindow s.srs.oldestUnacked (seqAdd s.srs.oldestUnacked s.cfg.srW s.cfg.srMax) s.cfg.srMax s.srs.nextToSend

/-- The sliding loop of R293: past acknowledged (empty) slots, up to `next`. `fuel` bounds the turns; from legal
registers `m` turns pass every number. -/
def slideBase (m next : Nat) (a : SlotArray) : Nat → Nat → Nat
  | 0, base => base
  | fuel + 1, base =>
      if base ≠ next ∧ (memRead a base).isNone then slideBase m next a fuel (seqInc base m) else base

/-- `SRS.CANSEND` (R291). -/
def execSrsCansend (s : State) : Host.Outcome State Fault Refusal :=
  hostOperation .srs true (fun s => s.ret (.truth (srCanSend s))) s

/-- `SRS.SEND p` (R292): the slot's own timer is started. -/
def execSrsSend (p : Bytes) (s : State) : Host.Outcome State Fault Refusal :=
  hostOperation .srs (srCanSend s) (fun s =>
    if p.length > s.cfg.frameMax - 2 then s.answer .errLen
    else
      let g := s.srs
      let f := encodeS (zext8 g.nextToSend) p
      let s := { s with srs := { g with
        frames := memWrite g.frames g.nextToSend (some f),
        timers := setTimerAt g.timers g.nextToSend (timerStart s.cfg.tSr),
        nextToSend := seqInc g.nextToSend s.cfg.srMax } }
      (s.tx .srs f).answer .ok) s

/-- The acknowledgment of `q`, in the send window (R293): its timer cancelled, its slot cleared, and if it was the
oldest, `oldestUnacked` slid past the acknowledged slots. -/
def SrSender.acknowledge (g : SrSender) (q m : Nat) : SrSender :=
  let a := memWrite g.frames q none
  { g with
    timers := setTimerAt g.timers q timerCancel,
    frames := a,
    oldestUnacked := if q = g.oldestUnacked then slideBase m g.nextToSend a m g.oldestUnacked else g.oldestUnacked }

/-- `SRS.RX d` (R293). -/
def execSrsRx (d : Bytes) (s : State) : Host.Outcome State Fault Refusal :=
  eventOperation .srs true (fun s =>
    let q := (seqOf d).toNat
    if isAck s.cfg.textDec d &&
        inWindow s.srs.oldestUnacked (seqAdd s.srs.oldestUnacked s.cfg.srW s.cfg.srMax) s.cfg.srMax q then
      { s with srs := s.srs.acknowledge q s.cfg.srMax }
    else s) s

/-- `SRS.TMO i` (R294): this slot's timer and frame only. A slot that does not exist is a fault (A15). -/
def execSrsTmo (k : Nat) (s : State) : Host.Outcome State Fault Refusal :=
  if k < s.cfg.srMax then
    eventOperation .srs (timerAt s.srs.timers k).expired (fun s =>
      let s := { s with srs := { s.srs with timers := setTimerAt s.srs.timers k (timerStart s.cfg.tSr) } }
      s.txSlot .srs (memRead s.srs.frames k)) s
  else .fault .noSuchSlot

/-- What the drain of R295 has delivered and left: the payloads in order, the buffer, `oldestExpected`. -/
structure Drained where
  delivered : List Bytes
  reorder : SlotArray
  oldestExpected : Nat
deriving DecidableEq, Repr

/-- The drain loop of R295: deliver consecutive buffered payloads, clearing each slot, until an empty slot or `fuel`
payloads (`SR_W`, D25). -/
def drain (m : Nat) : Nat → SlotArray → Nat → Drained
  | 0, b, oe => ⟨[], b, oe⟩
  | fuel + 1, b, oe =>
      match memRead b oe with
      | none => ⟨[], b, oe⟩
      | some p =>
          let r := drain m fuel (memWrite b oe none) (seqInc oe m)
          { r with delivered := p :: r.delivered }

/-- Deliver payloads in order. -/
def State.deliverAll (s : State) (u : ProtUnit) (ps : List Bytes) : State :=
  ps.foldl (fun s p => s.emit (.deliver u p)) s

/-- Case (a) of R295: store the decoded payload, store and send the `ACK` of that slot, and drain when it was the
oldest expected. -/
def State.srrAccept (s : State) (d : Bytes) : State :=
  let q := (seqOf d).toNat
  let r := s.srr
  let b := memWrite r.reorder q (some (textDec s.cfg.textDec (payloadS d)))
  let a := ackFrame (seqOf d)
  let s := s.tx .srr a
  if q = r.oldestExpected then
    let n := drain s.cfg.srMax s.cfg.srW b r.oldestExpected
    let s := { s with srr := { r with
      reorder := n.reorder, acks := memWrite r.acks q (some a), oldestExpected := n.oldestExpected } }
    s.deliverAll .srr n.delivered
  else { s with srr := { r with reorder := b, acks := memWrite r.acks q (some a) } }

/-- `SRR.RX d` (R295): the receive window is tested before the shadow window (60_exceptions.md R348). -/
def execSrrRx (d : Bytes) (s : State) : Host.Outcome State Fault Refusal :=
  eventOperation .srr true (fun s =>
    let q := (seqOf d).toNat
    let oe := s.srr.oldestExpected
    if !validS d then s
    else if inWindow oe (seqAdd oe s.cfg.srW s.cfg.srMax) s.cfg.srMax q then s.srrAccept d
    else if inWindow (seqSub oe s.cfg.srW s.cfg.srMax) oe s.cfg.srMax q then
      s.txSlot .srr (memRead s.srr.acks q)
    else s) s

end Sys2Proof.Machine
end

