-- ==== Sys2Proof/Machine/Control.lean ====
section
/-! DEFINITION. `TICK` of the five senders (60_exceptions.md R353, R357), `STOP` of the ten protocol units (R356) and
`SYS.RESET` (70_reset_and_hazards.md R380). -/

namespace Sys2Proof.Machine

/-! ## Ticks -/

/-- `SWNS.TICK` (R353). -/
def execSwnsTick (s : State) : Host.Outcome State Fault Refusal :=
  eventOperation .swns true (fun s => { s with swns := { s.swns with timer := s.swns.timer.tick } }) s

/-- `ABPS.TICK` (R353). -/
def execAbpsTick (s : State) : Host.Outcome State Fault Refusal :=
  eventOperation .abps true (fun s => { s with abps := { s.abps with timer := s.abps.timer.tick } }) s

/-- `PNAS.TICK` (R353). -/
def execPnasTick (s : State) : Host.Outcome State Fault Refusal :=
  eventOperation .pnas true (fun s => { s with pnas := { s.pnas with timer := s.pnas.timer.tick } }) s

/-- `GBNS.TICK` (R353). -/
def execGbnsTick (s : State) : Host.Outcome State Fault Refusal :=
  eventOperation .gbns true (fun s => { s with gbns := { s.gbns with timer := s.gbns.timer.tick } }) s

/-- Every timer `0 .. m-1` of the array counts the same tick (R357); a timer that is not listed is idle and stays so. -/
def tickAll (m : Nat) (a : TimerArray) : TimerArray :=
  a.map (fun e => if e.1 < m then (e.1, e.2.tick) else e)

/-- `SRS.TICK` (R357). -/
def execSrsTick (s : State) : Host.Outcome State Fault Refusal :=
  eventOperation .srs true (fun s => { s with srs := { s.srs with timers := tickAll s.cfg.srMax s.srs.timers } }) s

/-! ## Shutdown -/

/-- `wasWaiting` of R356: the unit has a state register in `WAIT_ACK` and is open. -/
def State.sendInProgress (s : State) (u : ProtUnit) : Bool :=
  decide (s.tag u = some waitAck) && !(s.flags u).closed

/-- `u.STOP` (R356): the timers cancelled, the unit closed, all else kept; a send in progress fails cleanly. -/
def stopUnit (u : ProtUnit) (s : State) : Host.Outcome State Fault Refusal :=
  if (s.flags u).fault then .next (s.answer .errFault)
  else if !s.wf u then .next ((s.takeFault u badState).answer .errFault)
  else
    let t := s.cancelTimers u
    let t := t.setFlags u { t.flags u with closed := true }
    .next ((if s.sendInProgress u then t.emit (.done u .errClosed) else t).answer .ok)

/-- `SWNS.STOP` (R356). -/
def execSwnsStop (s : State) : Host.Outcome State Fault Refusal := stopUnit .swns s

/-- `SWNR.STOP` (R356). -/
def execSwnrStop (s : State) : Host.Outcome State Fault Refusal := stopUnit .swnr s

/-- `ABPS.STOP` (R356). -/
def execAbpsStop (s : State) : Host.Outcome State Fault Refusal := stopUnit .abps s

/-- `ABPR.STOP` (R356). -/
def execAbprStop (s : State) : Host.Outcome State Fault Refusal := stopUnit .abpr s

/-- `PNAS.STOP` (R356). -/
def execPnasStop (s : State) : Host.Outcome State Fault Refusal := stopUnit .pnas s

/-- `PNAR.STOP` (R356). -/
def execPnarStop (s : State) : Host.Outcome State Fault Refusal := stopUnit .pnar s

/-- `GBNS.STOP` (R356). -/
def execGbnsStop (s : State) : Host.Outcome State Fault Refusal := stopUnit .gbns s

/-- `GBNR.STOP` (R356). -/
def execGbnrStop (s : State) : Host.Outcome State Fault Refusal := stopUnit .gbnr s

/-- `SRS.STOP` (R356). -/
def execSrsStop (s : State) : Host.Outcome State Fault Refusal := stopUnit .srs s

/-- `SRR.STOP` (R356). -/
def execSrrStop (s : State) : Host.Outcome State Fault Refusal := stopUnit .srr s

/-! ## Reset -/

/-- `SYS.RESET` (70_reset_and_hazards.md R380): no prologue; the only output is `ret(OK)`. -/
def execSysReset (s : State) : Host.Outcome State Fault Refusal :=
  .next (s.resetBlock.answer .ok)

end Sys2Proof.Machine
end

