-- ==== Sys2Proof/Machine/Wire.lean ====
section
/-! DEFINITION. The wire frames of 30_encoding.md R100 to R104 as they stand at the RX port of a unit: the arrival of a
datagram is served as the unit's `RX` of its bytes (60_exceptions.md R345, R365). DEDUCED (A6). -/

namespace Sys2Proof.Machine

/-- `u.RX d`: the meaning of the unit's own `RX` (60_exceptions.md R345). -/
def arrive (u : ProtUnit) (d : Bytes) (s : State) : Host.Outcome State Fault Refusal :=
  match u with
  | .swns => execSwnsRx d s
  | .swnr => execSwnrRx d s
  | .abps => execAbpsRx d s
  | .abpr => execAbprRx d s
  | .pnas => execPnasRx d s
  | .pnar => execPnarRx d s
  | .gbns => execGbnsRx d s
  | .gbnr => execGbnrRx d s
  | .srs => execSrsRx d s
  | .srr => execSrrRx d s

/-- `WIRE-N` (R100): payload, then checksum. -/
def execWireN (u : ProtUnit) (p : Bytes) (c : Byte) (s : State) : Host.Outcome State Fault Refusal :=
  arrive u (p ++ [c]) s

/-- `WIRE-S` (R101): sequence byte, payload, checksum. -/
def execWireS (u : ProtUnit) (q : Byte) (p : Bytes) (c : Byte) (s : State) : Host.Outcome State Fault Refusal :=
  arrive u (q :: (p ++ [c])) s

/-- `NAK0` (R103), which only `SWNS` receives. -/
def execNak0 (s : State) : Host.Outcome State Fault Refusal :=
  arrive .swns nak0Frame s

/-- `Ack(s)` (R104) with the checksum byte as received. -/
def execAck (u : ProtUnit) (q c : Byte) (s : State) : Host.Outcome State Fault Refusal :=
  arrive u (q :: (textAck ++ [c])) s

/-- `Nak(s)` (R104) with the checksum byte as received; only `PNAS` receives it (30_encoding.md R102). -/
def execNak (q c : Byte) (s : State) : Host.Outcome State Fault Refusal :=
  arrive .pnas (q :: (textNak ++ [c])) s

end Sys2Proof.Machine
end

