-- ==== Sys2Proof/Machine/Accept.lean ====
section
/-! DEFINITION. Which operations are accepted in a state: the prologue's step 4 and the enabling condition of each
operation (00_scope.md R12, 60_exceptions.md R341, R345). An operation that is not accepted is no step. -/

namespace Sys2Proof.Machine

/-- The enabling condition of the `RX` of a unit (60_exceptions.md R345): the stop-and-wait senders listen only in
`WAIT_ACK` (D16). -/
def State.rxEnabled (s : State) : ProtUnit → Bool
  | .swns => waitingTag s.swns.state
  | .abps => waitingTag s.abps.state
  | .pnas => waitingTag s.pnas.state
  | _ => true

/-- A datagram at the RX port of unit `u` is taken. -/
def State.rxAccepts (s : State) (u : ProtUnit) : Bool :=
  eventAccepts u (s.rxEnabled u) s

/-- The operation is accepted; every instruction has its line. -/
def accepts (i : Instr) (s : State) : Bool :=
  match i with
  | .crcClr | .crcShift _ | .crcByte _ | .crcAug | .crcRead | .crcCompute _ | .crcVerify _ => true
  | .frmEnc _ | .frmEncs _ _ | .frmDec _ | .frmDecs _ => true
  | .winTest _ _ _ _ => true
  | .swnsSend _ => hostAccepts .swns (idleTag s.swns.state) s
  | .swnsRx _ => s.rxAccepts .swns
  | .swnsTmo => eventAccepts .swns s.swns.timer.expired s
  | .swnsTick => eventAccepts .swns true s
  | .swnrRx _ => s.rxAccepts .swnr
  | .abpsSend _ => hostAccepts .abps (idleTag s.abps.state) s
  | .abpsRx _ => s.rxAccepts .abps
  | .abpsTmo => eventAccepts .abps s.abps.timer.expired s
  | .abpsTick => eventAccepts .abps true s
  | .abprRx _ => s.rxAccepts .abpr
  | .pnasSend _ => hostAccepts .pnas (idleTag s.pnas.state) s
  | .pnasRx _ => s.rxAccepts .pnas
  | .pnasTmo => eventAccepts .pnas s.pnas.timer.expired s
  | .pnasTick => eventAccepts .pnas true s
  | .pnarRx _ => s.rxAccepts .pnar
  | .gbnsSend _ => hostAccepts .gbns (gbnCanSend s) s
  | .gbnsRx _ => s.rxAccepts .gbns
  | .gbnsTmo => eventAccepts .gbns s.gbns.timer.expired s
  | .gbnsTick => eventAccepts .gbns true s
  | .gbnsCansend => true
  | .gbnrRx _ => s.rxAccepts .gbnr
  | .srsSend _ => hostAccepts .srs (srCanSend s) s
  | .srsRx _ => s.rxAccepts .srs
  | .srsTmo k => eventAccepts .srs (timerAt s.srs.timers k).expired s
  | .srsTick => eventAccepts .srs true s
  | .srsCansend => true
  | .srrRx _ => s.rxAccepts .srr
  | .swnsStop | .swnrStop | .abpsStop | .abprStop | .pnasStop | .pnarStop => true
  | .gbnsStop | .gbnrStop | .srsStop | .srrStop => true
  | .sysReset => true
  | .wireN u _ _ => s.rxAccepts u
  | .wireS u _ _ _ => s.rxAccepts u
  | .nak0 => s.rxAccepts .swns
  | .ack u _ _ => s.rxAccepts u
  | .nak _ _ => s.rxAccepts .pnas

end Sys2Proof.Machine
end

