-- ==== Sys2Proof/Machine/Fetch.lean ====
section
/-! DEFINITION. What the machine serves next: the first event of the agenda that is accepted; events that are not
accepted wait in their place; when none is accepted, an expired timer (A1, A2, A3). -/

namespace Sys2Proof.Machine

/-- What a step has to do. -/
inductive Fetched where
  /-- nothing is offered that any unit accepts, and no timer waits: a unit with no event does nothing (R23, R369) -/
  | idle
  /-- an operation, and the state in which it runs -/
  | run (i : Instr) (s : State)
  /-- an event that is no operation of a unit, and the state it leaves -/
  | moved (s : State)
  /-- no operation at all -/
  | stop (r : Refusal)
deriving DecidableEq, Repr

/-- Inverting bit `n` of a datagram: bit `n mod 8` of byte `n / 8`; the length is kept (60_exceptions.md R360).
A bit number beyond the datagram inverts nothing. -/
def flipBit (n : Nat) (d : Bytes) : Bytes :=
  d.modify (n / 8) (fun v => v ^^^ (1#8 <<< (n % 8)))

/-- The datagram as the channel delivers it: unchanged, or with one bit inverted (R360). -/
def corrupt (flip : Option Nat) (d : Bytes) : Bytes :=
  match flip with
  | some n => flipBit n d
  | none => d

/-- The operation a decoded message stands for is accepted, or it is something the port answers at once. -/
def servableDecoded (s : State) : Decoded → Bool
  | .instr i => !i.inRange s.cfg || accepts i s
  | .reserved _ => true
  | .reject _ => true

/-- An event of the agenda can be served now. -/
def servable (s : State) : Event → Bool
  | .offer o => servableDecoded s (decode o)
  | .deliver k flip =>
      match s.wire[k]? with
      | some (u, d) => servableDecoded s (.instr (decodeDatagram u (corrupt flip d)))
      | none => true
  | .lose _ => true
  | .resetInput => true

/-- The first element a test holds of, and the list without it. -/
def takeFirst {α : Type} (p : α → Bool) : List α → Option (α × List α)
  | [] => none
  | a :: rest => if p a then some (a, rest) else (takeFirst p rest).map (fun r => (r.1, a :: r.2))

/-- An operation runs if its operands are in range (30_encoding.md R113). -/
def runInRange (i : Instr) (s : State) : Fetched :=
  if i.inRange s.cfg then .run i s else .stop .operandRange

/-- What serving an event of the agenda is, `s` being the state with that event taken off. A reserved command code is
answered `ERR_ILLEGAL` and changes nothing else (30_encoding.md R114). -/
def serve (s : State) : Event → Fetched
  | .offer o =>
      match decode o with
      | .instr i => runInRange i s
      | .reserved _ => .moved (s.answer .errIllegal)
      | .reject r => .stop (.notACommand r)
  | .deliver k flip =>
      match s.wire[k]? with
      | some (u, d) => runInRange (decodeDatagram u (corrupt flip d)) { s with wire := s.wire.eraseIdx k }
      | none => .moved s
  | .lose k => .moved { s with wire := s.wire.eraseIdx k }
  | .resetInput => .moved s.resetBlock

/-- The first expired timer of `SRS` among `0 .. m-1`, by slot. -/
def firstExpired (m : Nat) : TimerArray → Option Nat
  | [] => none
  | (k, t) :: rest => if k < m ∧ t.expired then some k else firstExpired m rest

/-- A unit serves its timers: it is open and has no fault (60_exceptions.md R341). -/
def State.live (s : State) (u : ProtUnit) : Bool :=
  !((s.flags u).fault || (s.flags u).closed)

/-- The timeout that an expired timer enables, in a fixed order of units and slots; the agenda can name any other
(A3). -/
def dueTimeout (s : State) : Option Instr :=
  if s.live .swns && s.swns.timer.expired then some .swnsTmo
  else if s.live .abps && s.abps.timer.expired then some .abpsTmo
  else if s.live .pnas && s.pnas.timer.expired then some .pnasTmo
  else if s.live .gbns && s.gbns.timer.expired then some .gbnsTmo
  else if s.live .srs then (firstExpired s.cfg.srMax s.srs.timers).map .srsTmo
  else none

/-- What the machine does next. -/
def fetch (s : State) : Fetched :=
  match takeFirst (servable s) s.agenda with
  | some (e, rest) => serve { s with agenda := rest } e
  | none =>
      match dueTimeout s with
      | some i => .run i s
      | none => .idle

end Sys2Proof.Machine
end

