-- ==== Sys2Proof/Machine/Dispatch.lean ====
section
/-! DEFINITION. One arm per constructor of `Instr`, each one call of its meaning. -/

namespace Sys2Proof.Machine

def exec (i : Instr) (s : State) : Host.Outcome State Fault Refusal :=
  match i with
  | .crcClr => Sys2Proof.Machine.execCrcClr s
  | .crcShift b => Sys2Proof.Machine.execCrcShift b s
  | .crcByte v => Sys2Proof.Machine.execCrcByte v s
  | .crcAug => Sys2Proof.Machine.execCrcAug s
  | .crcRead => Sys2Proof.Machine.execCrcRead s
  | .crcCompute d => Sys2Proof.Machine.execCrcCompute d s
  | .crcVerify d => Sys2Proof.Machine.execCrcVerify d s
  | .frmEnc p => Sys2Proof.Machine.execFrmEnc p s
  | .frmEncs q p => Sys2Proof.Machine.execFrmEncs q p s
  | .frmDec d => Sys2Proof.Machine.execFrmDec d s
  | .frmDecs d => Sys2Proof.Machine.execFrmDecs d s
  | .winTest low high modulus value => Sys2Proof.Machine.execWinTest low high modulus value s
  | .swnsSend p => Sys2Proof.Machine.execSwnsSend p s
  | .swnsRx d => Sys2Proof.Machine.execSwnsRx d s
  | .swnsTmo => Sys2Proof.Machine.execSwnsTmo s
  | .swnsTick => Sys2Proof.Machine.execSwnsTick s
  | .swnsStop => Sys2Proof.Machine.execSwnsStop s
  | .swnrRx d => Sys2Proof.Machine.execSwnrRx d s
  | .swnrStop => Sys2Proof.Machine.execSwnrStop s
  | .abpsSend p => Sys2Proof.Machine.execAbpsSend p s
  | .abpsRx d => Sys2Proof.Machine.execAbpsRx d s
  | .abpsTmo => Sys2Proof.Machine.execAbpsTmo s
  | .abpsTick => Sys2Proof.Machine.execAbpsTick s
  | .abpsStop => Sys2Proof.Machine.execAbpsStop s
  | .abprRx d => Sys2Proof.Machine.execAbprRx d s
  | .abprStop => Sys2Proof.Machine.execAbprStop s
  | .pnasSend p => Sys2Proof.Machine.execPnasSend p s
  | .pnasRx d => Sys2Proof.Machine.execPnasRx d s
  | .pnasTmo => Sys2Proof.Machine.execPnasTmo s
  | .pnasTick => Sys2Proof.Machine.execPnasTick s
  | .pnasStop => Sys2Proof.Machine.execPnasStop s
  | .pnarRx d => Sys2Proof.Machine.execPnarRx d s
  | .pnarStop => Sys2Proof.Machine.execPnarStop s
  | .gbnsSend p => Sys2Proof.Machine.execGbnsSend p s
  | .gbnsRx d => Sys2Proof.Machine.execGbnsRx d s
  | .gbnsTmo => Sys2Proof.Machine.execGbnsTmo s
  | .gbnsTick => Sys2Proof.Machine.execGbnsTick s
  | .gbnsStop => Sys2Proof.Machine.execGbnsStop s
  | .gbnsCansend => Sys2Proof.Machine.execGbnsCansend s
  | .gbnrRx d => Sys2Proof.Machine.execGbnrRx d s
  | .gbnrStop => Sys2Proof.Machine.execGbnrStop s
  | .srsSend p => Sys2Proof.Machine.execSrsSend p s
  | .srsRx d => Sys2Proof.Machine.execSrsRx d s
  | .srsTmo k => Sys2Proof.Machine.execSrsTmo k s
  | .srsTick => Sys2Proof.Machine.execSrsTick s
  | .srsStop => Sys2Proof.Machine.execSrsStop s
  | .srsCansend => Sys2Proof.Machine.execSrsCansend s
  | .srrRx d => Sys2Proof.Machine.execSrrRx d s
  | .srrStop => Sys2Proof.Machine.execSrrStop s
  | .sysReset => Sys2Proof.Machine.execSysReset s
  | .wireN u p c => Sys2Proof.Machine.execWireN u p c s
  | .wireS u q p c => Sys2Proof.Machine.execWireS u q p c s
  | .nak0 => Sys2Proof.Machine.execNak0 s
  | .ack u q c => Sys2Proof.Machine.execAck u q c s
  | .nak q c => Sys2Proof.Machine.execNak q c s

end Sys2Proof.Machine
end

