-- ==== Sys2Proof/Machine/Step.lean ====
section
/-! DEFINITION. One step of the machine, and where the host places an instruction for it. -/

namespace Sys2Proof.Machine

/-- One step: serve what is next (A1 to A3). With nothing to serve the machine stays as it is (10_state.md R23). -/
def step (s : State) : Host.Outcome State Fault Refusal :=
  match fetch s with
  | .idle => .next s
  | .run i t => exec i t
  | .moved t => .next t
  | .stop r => .refused r

/-- The instruction of a table word offered first, before all else (A4): what the agents offer is all there is to
fetch. -/
def State.withFetchWord (s : State) (nbits w : Nat) : State :=
  { s with agenda := .offer (offerOfWord nbits w) :: s.agenda }

end Sys2Proof.Machine
end

