-- ==== Sys2Proof/Safety.lean ====
section
/-! DEFINITION. The terms claims are stated in: a unit that works, which unit an operation belongs to, what agreement
outside a unit is, the invariants of 10_state.md section 9, well-formed UTF-8, and runs of several operations. -/

namespace Sys2Proof.Machine

/-! ## Units -/

/-- The unit is open, has no fault, and its registers hold legal codes: the prologue of 60_exceptions.md R341 lets an
operation through to its enabling condition. -/
def Working (u : ProtUnit) (s : State) : Prop :=
  (s.flags u).fault = false ∧ (s.flags u).closed = false ∧ s.wf u = true

/-- The unit an operation or an arriving frame belongs to; none for `CRC`, `FRM`, `WIN` and `SYS` (30_encoding.md
R111). -/
def instrUnit : Instr → Option ProtUnit
  | .swnsSend _ | .swnsRx _ | .swnsTmo | .swnsTick | .swnsStop | .nak0 => some .swns
  | .swnrRx _ | .swnrStop => some .swnr
  | .abpsSend _ | .abpsRx _ | .abpsTmo | .abpsTick | .abpsStop => some .abps
  | .abprRx _ | .abprStop => some .abpr
  | .pnasSend _ | .pnasRx _ | .pnasTmo | .pnasTick | .pnasStop | .nak _ _ => some .pnas
  | .pnarRx _ | .pnarStop => some .pnar
  | .gbnsSend _ | .gbnsRx _ | .gbnsTmo | .gbnsTick | .gbnsStop | .gbnsCansend => some .gbns
  | .gbnrRx _ | .gbnrStop => some .gbnr
  | .srsSend _ | .srsRx _ | .srsTmo _ | .srsTick | .srsStop | .srsCansend => some .srs
  | .srrRx _ | .srrStop => some .srr
  | .wireN u _ _ | .wireS u _ _ _ | .ack u _ _ => some u
  | .crcClr | .crcShift _ | .crcByte _ | .crcAug | .crcRead | .crcCompute _ | .crcVerify _ => none
  | .frmEnc _ | .frmEncs _ _ | .frmDec _ | .frmDecs _ | .winTest _ _ _ _ | .sysReset => none

/-- The host operations under the prologue's first list: `SEND` and `CANSEND` (60_exceptions.md R341). -/
def isSendOrCansend : Instr → Bool
  | .swnsSend _ | .abpsSend _ | .pnasSend _ | .gbnsSend _ | .srsSend _ | .gbnsCansend | .srsCansend => true
  | _ => false

/-- The ten `STOP` operations (60_exceptions.md R356). -/
def isStop : Instr → Bool
  | .swnsStop | .swnrStop | .abpsStop | .abprStop | .pnasStop | .pnarStop | .gbnsStop | .gbnrStop | .srsStop
  | .srrStop => true
  | _ => false

/-- The operations of other agents, under the prologue's second list: `RX` (a frame's arrival is one), `TMO`, `TICK`
(60_exceptions.md R341). -/
def isEvent : Instr → Bool
  | .swnsRx _ | .swnsTmo | .swnsTick | .swnrRx _ | .abpsRx _ | .abpsTmo | .abpsTick | .abprRx _ | .pnasRx _
  | .pnasTmo | .pnasTick | .pnarRx _ | .gbnsRx _ | .gbnsTmo | .gbnsTick | .gbnrRx _ | .srsRx _ | .srsTmo _
  | .srsTick | .srrRx _ | .wireN _ _ _ | .wireS _ _ _ _ | .nak0 | .ack _ _ _ | .nak _ _ => true
  | _ => false

/-- Every register outside unit `u` is the same in both states, and so are the configuration and the agenda
(10_state.md R20). -/
def AgreeOutside (u : ProtUnit) (s t : State) : Prop :=
  t.crc = s.crc ∧ t.cfg = s.cfg ∧ t.agenda = s.agenda ∧
  (u ≠ .swns → t.swns = s.swns) ∧ (u ≠ .swnr → t.swnr = s.swnr) ∧ (u ≠ .abps → t.abps = s.abps) ∧
  (u ≠ .abpr → t.abpr = s.abpr) ∧ (u ≠ .pnas → t.pnas = s.pnas) ∧ (u ≠ .pnar → t.pnar = s.pnar) ∧
  (u ≠ .gbns → t.gbns = s.gbns) ∧ (u ≠ .gbnr → t.gbnr = s.gbnr) ∧ (u ≠ .srs → t.srs = s.srs) ∧
  (u ≠ .srr → t.srr = s.srr)

/-- Every register of unit `u`, its slots and timers among them, is the same in both states (10_state.md R31 to R40). -/
def SameUnit (u : ProtUnit) (s t : State) : Prop :=
  match u with
  | .swns => t.swns = s.swns
  | .swnr => t.swnr = s.swnr
  | .abps => t.abps = s.abps
  | .abpr => t.abpr = s.abpr
  | .pnas => t.pnas = s.pnas
  | .pnar => t.pnar = s.pnar
  | .gbns => t.gbns = s.gbns
  | .gbnr => t.gbnr = s.gbnr
  | .srs => t.srs = s.srs
  | .srr => t.srr = s.srr

/-- Every register of the block is the same in both states (10_state.md R41). -/
def SameRegisters (s t : State) : Prop :=
  t.crc = s.crc ∧ t.swns = s.swns ∧ t.swnr = s.swnr ∧ t.abps = s.abps ∧ t.abpr = s.abpr ∧ t.pnas = s.pnas ∧
  t.pnar = s.pnar ∧ t.gbns = s.gbns ∧ t.gbnr = s.gbnr ∧ t.srs = s.srs ∧ t.srr = s.srr

/-- The output leaves on a port of unit `u`, or answers the host. -/
def outputOf (u : ProtUnit) : Output → Prop
  | .tx v _ => v = u
  | .deliver v _ => v = u
  | .done v _ => v = u
  | .ret _ => True

/-- The datagrams among outputs, each with the unit it travels to (60_exceptions.md R363). -/
def datagramsOf (outs : List Output) : List (ProtUnit × Bytes) :=
  outs.filterMap (fun o => match o with
    | .tx v d => some (v.peer, d)
    | _ => none)

/-- Every register of the block holds the value of 10_state.md R47 (70_reset_and_hazards.md R380). -/
def RegistersReset (t : State) : Prop :=
  t.crc = 0x00 ∧
  t.swns = { state := 0b01#2, txbuf := none, timer := ⟨false, 0⟩, flags := ⟨false, false, 0⟩ } ∧
  t.swnr = { flags := ⟨false, false, 0⟩ } ∧
  t.abps = { state := 0b01#2, seq := 0, txbuf := none, timer := ⟨false, 0⟩, flags := ⟨false, false, 0⟩ } ∧
  t.abpr = { expected := 0, flags := ⟨false, false, 0⟩ } ∧
  t.pnas = { state := 0b01#2, seq := 0, txbuf := none, timer := ⟨false, 0⟩, flags := ⟨false, false, 0⟩ } ∧
  t.pnar = { expected := 0, flags := ⟨false, false, 0⟩ } ∧
  t.gbns = { oldestUnacked := 0, nextToSend := 0, frames := [], timer := ⟨false, 0⟩, flags := ⟨false, false, 0⟩ } ∧
  t.gbnr = { expected := 0, lastAck := none, flags := ⟨false, false, 0⟩ } ∧
  t.srs = { oldestUnacked := 0, nextToSend := 0, frames := [], timers := [], flags := ⟨false, false, 0⟩ } ∧
  t.srr = { oldestExpected := 0, reorder := [], acks := [], flags := ⟨false, false, 0⟩ }

/-! ## Invariants -/

/-- No unit holds an illegal code, none has taken the fault, and every cause is 0 (60_exceptions.md R340, R342). -/
def NoFaultAnywhere (s : State) : Prop :=
  ∀ u, s.wf u = true ∧ (s.flags u).fault = false ∧ (s.flags u).cause = 0

/-- The frames in flight at `GBNS` (10_state.md R43). -/
def gbnInFlight (s : State) : Nat :=
  (s.gbns.nextToSend + s.cfg.gbnMax - s.gbns.oldestUnacked) % s.cfg.gbnMax

/-- 10_state.md R43, with legal registers. -/
def GbnsInv (s : State) : Prop :=
  s.wf .gbns = true ∧ gbnInFlight s ≤ s.cfg.gbnW ∧
  (∀ k, k < s.cfg.gbnMax →
    ((memRead s.gbns.frames k).isSome = true ↔
      (k + s.cfg.gbnMax - s.gbns.oldestUnacked) % s.cfg.gbnMax < gbnInFlight s)) ∧
  (s.gbns.timer.armed = true ↔
    0 < gbnInFlight s ∧ s.gbns.flags.closed = false ∧ s.gbns.flags.fault = false)

/-- The numbers from `oldestUnacked` up to `nextToSend - 1` at `SRS` (10_state.md R44). -/
def srInFlight (s : State) : Nat :=
  (s.srs.nextToSend + s.cfg.srMax - s.srs.oldestUnacked) % s.cfg.srMax

/-- 10_state.md R44, with legal registers. -/
def SrsInv (s : State) : Prop :=
  s.wf .srs = true ∧ srInFlight s ≤ s.cfg.srW ∧
  (∀ k, k < s.cfg.srMax → (memRead s.srs.frames k).isSome = true →
    (k + s.cfg.srMax - s.srs.oldestUnacked) % s.cfg.srMax < srInFlight s) ∧
  (0 < srInFlight s → (memRead s.srs.frames s.srs.oldestUnacked).isSome = true) ∧
  (s.srs.flags.closed = false → s.srs.flags.fault = false → ∀ k, k < s.cfg.srMax →
    ((timerAt s.srs.timers k).armed = true ↔ (memRead s.srs.frames k).isSome = true))

/-- 10_state.md R45 (a) to (c), with a legal register: buffered payloads lie in the receive window, the slot expected
next is empty, a stored acknowledgment is `Ack(i)`. -/
def SrrInv (s : State) : Prop :=
  s.wf .srr = true ∧
  (∀ k, k < s.cfg.srMax → (memRead s.srr.reorder k).isSome = true →
    (k + s.cfg.srMax - s.srr.oldestExpected) % s.cfg.srMax < s.cfg.srW) ∧
  memRead s.srr.reorder s.srr.oldestExpected = none ∧
  (∀ k, k < s.cfg.srMax → ∀ a, memRead s.srr.acks k = some a → a = ackFrame (BitVec.ofNat 8 k))

/-- 10_state.md R46 for one sender: the timer runs exactly while an acknowledgment is awaited by an open, healthy unit,
and there is a frame to send again. -/
def AwaitInv (tag : BitVec 2) (armed : Bool) (txbuf : Option Bytes) (f : Flags) : Prop :=
  (armed = true ↔ tag = 0b10#2 ∧ f.closed = false ∧ f.fault = false) ∧ (tag = 0b10#2 → txbuf.isSome = true)

/-- 10_state.md R46: the three stop-and-wait senders and `GBNR.lastAck`. -/
def StopAndWaitInv (s : State) : Prop :=
  AwaitInv s.swns.state s.swns.timer.armed s.swns.txbuf s.swns.flags ∧
  AwaitInv s.abps.state s.abps.timer.armed s.abps.txbuf s.abps.flags ∧
  AwaitInv s.pnas.state s.pnas.timer.armed s.pnas.txbuf s.pnas.flags ∧
  s.gbnr.expected < s.cfg.gbnMax ∧
  (∀ a, s.gbnr.lastAck = some a →
    a = ackFrame (BitVec.ofNat 8 ((s.gbnr.expected + s.cfg.gbnMax - 1) % s.cfg.gbnMax)))

/-- The contents fit their registers (10_state.md R28 to R30, R41): frames within `FRAME_MAX`, buffered payloads within
`FRAME_MAX - 2`, counters within the timeout. -/
def SizesFit (s : State) : Prop :=
  (∀ f, s.swns.txbuf = some f → f.length ≤ s.cfg.frameMax) ∧
  (∀ f, s.abps.txbuf = some f → f.length ≤ s.cfg.frameMax) ∧
  (∀ f, s.pnas.txbuf = some f → f.length ≤ s.cfg.frameMax) ∧
  (∀ k f, memRead s.gbns.frames k = some f → f.length ≤ s.cfg.frameMax) ∧
  (∀ k f, memRead s.srs.frames k = some f → f.length ≤ s.cfg.frameMax) ∧
  (∀ k p, memRead s.srr.reorder k = some p → p.length + 2 ≤ s.cfg.frameMax) ∧
  s.swns.timer.cnt ≤ s.cfg.tSwn ∧ s.abps.timer.cnt ≤ s.cfg.tAbp ∧ s.pnas.timer.cnt ≤ s.cfg.tPna ∧
  s.gbns.timer.cnt ≤ s.cfg.tGbn ∧ (∀ k, (timerAt s.srs.timers k).cnt ≤ s.cfg.tSr)

/-! ## Well-formed UTF-8 -/

/-- The rows of the table of 41_frame_codec.md R167. -/
inductive Utf8Char : Bytes → Prop where
  | one (a : Byte) : a.toNat ≤ 0x7F → Utf8Char [a]
  | two (a b : Byte) : 0xC2 ≤ a.toNat → a.toNat ≤ 0xDF → 0x80 ≤ b.toNat → b.toNat ≤ 0xBF → Utf8Char [a, b]
  | threeE0 (b c : Byte) : 0xA0 ≤ b.toNat → b.toNat ≤ 0xBF → 0x80 ≤ c.toNat → c.toNat ≤ 0xBF →
      Utf8Char [0xE0, b, c]
  | threeE1 (a b c : Byte) : 0xE1 ≤ a.toNat → a.toNat ≤ 0xEC → 0x80 ≤ b.toNat → b.toNat ≤ 0xBF →
      0x80 ≤ c.toNat → c.toNat ≤ 0xBF → Utf8Char [a, b, c]
  | threeED (b c : Byte) : 0x80 ≤ b.toNat → b.toNat ≤ 0x9F → 0x80 ≤ c.toNat → c.toNat ≤ 0xBF →
      Utf8Char [0xED, b, c]
  | threeEE (a b c : Byte) : 0xEE ≤ a.toNat → a.toNat ≤ 0xEF → 0x80 ≤ b.toNat → b.toNat ≤ 0xBF →
      0x80 ≤ c.toNat → c.toNat ≤ 0xBF → Utf8Char [a, b, c]
  | fourF0 (b c d : Byte) : 0x90 ≤ b.toNat → b.toNat ≤ 0xBF → 0x80 ≤ c.toNat → c.toNat ≤ 0xBF →
      0x80 ≤ d.toNat → d.toNat ≤ 0xBF → Utf8Char [0xF0, b, c, d]
  | fourF1 (a b c d : Byte) : 0xF1 ≤ a.toNat → a.toNat ≤ 0xF3 → 0x80 ≤ b.toNat → b.toNat ≤ 0xBF →
      0x80 ≤ c.toNat → c.toNat ≤ 0xBF → 0x80 ≤ d.toNat → d.toNat ≤ 0xBF → Utf8Char [a, b, c, d]
  | fourF4 (b c d : Byte) : 0x80 ≤ b.toNat → b.toNat ≤ 0x8F → 0x80 ≤ c.toNat → c.toNat ≤ 0xBF →
      0x80 ≤ d.toNat → d.toNat ≤ 0xBF → Utf8Char [0xF4, b, c, d]

/-- Well-formed UTF-8: well-formed sequences one after another. -/
inductive Utf8 : Bytes → Prop where
  | nil : Utf8 []
  | char (c rest : Bytes) : Utf8Char c → Utf8 rest → Utf8 (c ++ rest)

/-! ## Runs of several operations -/

/-- Operations one after another, stopping at the first that stops. -/
def execAll : List Instr → State → Host.Outcome State Fault Refusal
  | [], s => .next s
  | i :: rest, s =>
      match exec i s with
      | .next t => execAll rest t
      | .fault r => .fault r
      | .refused r => .refused r

end Sys2Proof.Machine
end

