-- ==== Sys2Proof/Certificates/Slice0/Obligations.lean ====
section
/-! DEFINITION. The statements for the provers. The text of each, its rule and its quote stand in OBLIGATIONS.json. -/

open Sys2Proof Sys2Proof.Machine

/-! ## Reset, step, decoding -/

/-- R380, R47: reset puts every register at its value, answers `OK`, and leaves the channel, the configuration and what
is offered; the reset input has the same effect on the block. -/
def Obligations.SysResetRestoresEveryRegister : Prop :=
  decode (.command .host [0xF0]) = .instr .sysReset ∧
  (∀ s : State, ∃ t, exec .sysReset s = .next t ∧ RegistersReset t ∧
    t.outs = s.outs ++ [.ret (.status .ok)] ∧ t.wire = s.wire ∧ t.cfg = s.cfg ∧ t.agenda = s.agenda ∧
    t.draws = s.draws) ∧
  (∀ (s : State) rest, s.agenda = .resetInput :: rest →
    ∃ t, step s = .next t ∧ RegistersReset t ∧ t.wire = s.wire ∧ t.cfg = s.cfg ∧ t.agenda = rest)

/-- R381: what the units accept in the reset state, under any configuration of this hardware. -/
def Obligations.FreshBlockAcceptsSends : Prop :=
  ∀ (s : State) (p : Bytes) (k : Nat), RegistersReset s → s.cfg.valid = true →
    accepts (.swnsSend p) s = true ∧ accepts (.abpsSend p) s = true ∧ accepts (.pnasSend p) s = true ∧
    accepts (.gbnsSend p) s = true ∧ accepts (.srsSend p) s = true ∧
    exec .gbnsCansend s = .next { s with outs := s.outs ++ [.ret (.truth true)] } ∧
    exec .srsCansend s = .next { s with outs := s.outs ++ [.ret (.truth true)] } ∧
    accepts .swnsTmo s = false ∧ accepts .abpsTmo s = false ∧ accepts .pnasTmo s = false ∧
    accepts .gbnsTmo s = false ∧ accepts (.srsTmo k) s = false ∧
    s.abpr.expected = 0 ∧ s.pnar.expected = 0 ∧ s.gbnr.expected = 0 ∧ s.srr.oldestExpected = 0

/-- The invariants hold of the state the model starts from (its configuration is the model's choice, A8). -/
def Obligations.ResetStateMeetsInvariants : Prop :=
  RegistersReset State.reset ∧ State.reset.cfg.valid = true ∧ Memory.wf State.reset = true ∧
  NoFaultAnywhere State.reset ∧ GbnsInv State.reset ∧ SrsInv State.reset ∧ SrrInv State.reset ∧
  StopAndWaitInv State.reset ∧ SizesFit State.reset

/-- R8, R12, R345: a step performs the offered operation when its unit accepts it; one that is not accepted waits where
it is and the next is served; with nothing offered an expired timer is served. The order of service is the model's
(A1 to A3). -/
def Obligations.StepServesTheOffer : Prop :=
  (∀ (s : State) o rest i, s.agenda = .offer o :: rest → decode o = .instr i → WellFormed s.cfg i = true →
    accepts i s = true → step s = exec i { s with agenda := rest }) ∧
  (∀ (s : State) o o' rest i j, s.agenda = .offer o :: .offer o' :: rest → decode o = .instr i →
    WellFormed s.cfg i = true → accepts i s = false → decode o' = .instr j → WellFormed s.cfg j = true →
    accepts j s = true → step s = exec j { s with agenda := .offer o :: rest }) ∧
  (∀ (s : State) o i, s.agenda = [.offer o] → decode o = .instr i → WellFormed s.cfg i = true →
    accepts i s = false → dueTimeout s = none → step s = .next s) ∧
  (∀ (s : State) i, s.agenda = [] → dueTimeout s = some i → step s = exec i s) ∧
  (∀ s : State, s.agenda = [] → dueTimeout s = none → step s = .next s)

/-- R12: an operation that is not accepted changes nothing and emits nothing. -/
def Obligations.HeldOperationChangesNothing : Prop :=
  ∀ (i : Instr) (s : State), i.inRange s.cfg = true → accepts i s = false → exec i s = .next s

/-- Words written out from the tables of 30_encoding.md, at least one of every unit and every frame layout, decode to the
operation or frame they stand for. That the operand bytes follow the code byte is the model's choice (A5). -/
def Obligations.WordsDecodeToTheirOperations : Prop :=
  decode (.command .host [0x00]) = .instr .crcClr ∧
  decode (.command .host [0x01, 0x01]) = .instr (.crcShift 1) ∧
  decode (.command .host [0x11, 0x03, 0x64]) = .instr (.frmEncs 3 [0x64]) ∧
  decode (.command .host [0x20, 14, 2, 16, 15]) = .instr (.winTest 14 2 16 15) ∧
  decode (.command .host [0x30, 0x68, 0x69]) = .instr (.swnsSend [0x68, 0x69]) ∧
  decode (.command .channel [0x41, 0x68]) = .instr (.swnrRx [0x68]) ∧
  decode (.command .tick [0x53]) = .instr .abpsTick ∧
  decode (.command .channel [0x61, 0x00, 0x78, 0x6F]) = .instr (.abprRx [0x00, 0x78, 0x6F]) ∧
  decode (.command .host [0x64]) = .instr .abprStop ∧
  decode (.command .host [0x74]) = .instr .pnasStop ∧
  decode (.command .channel [0x81, 0x00, 0x68]) = .instr (.pnarRx [0x00, 0x68]) ∧
  decode (.command .host [0x84]) = .instr .pnarStop ∧
  decode (.command .host [0x95]) = .instr .gbnsCansend ∧
  decode (.command .host [0xA4]) = .instr .gbnrStop ∧
  decode (.command .timer [0xB2, 0x01]) = .instr (.srsTmo 1) ∧
  decode (.command .channel [0xC1, 0x00, 0x61, 0x20]) = .instr (.srrRx [0x00, 0x61, 0x20]) ∧
  decode (.command .host [0xF0]) = .instr .sysReset ∧
  decode (.datagram .swnr [0x68, 0x69, 0x45]) = .instr (.wireN .swnr [0x68, 0x69] 0x45) ∧
  decode (.datagram .gbnr [0x00, 0x61, 0x20]) = .instr (.wireS .gbnr 0x00 [0x61] 0x20) ∧
  decode (.datagram .swns [0x00]) = .instr .nak0 ∧
  decode (.datagram .gbns [0x02, 0x41, 0x43, 0x4B, 0x53]) = .instr (.ack .gbns 0x02 0x53) ∧
  decode (.datagram .pnas [0x00, 0x4E, 0x41, 0x4B, 0x12]) = .instr (.nak 0x00 0x12)

/-- R114: a code outside the table, on the host port, is answered `ERR_ILLEGAL` and nothing else happens. -/
def Obligations.ReservedCodesAnswerIllegal : Prop :=
  ∀ (s : State) (op : Byte) (args : Bytes) rest, s.agenda = .offer (.command .host (op :: args)) :: rest →
    op.toNat ∉ [0x00, 0x01, 0x02, 0x03, 0x04, 0x05, 0x06, 0x10, 0x11, 0x12, 0x13, 0x20, 0x30, 0x31, 0x32, 0x33,
      0x34, 0x41, 0x44, 0x50, 0x51, 0x52, 0x53, 0x54, 0x61, 0x64, 0x70, 0x71, 0x72, 0x73, 0x74, 0x81, 0x84, 0x90,
      0x91, 0x92, 0x93, 0x94, 0x95, 0xA1, 0xA4, 0xB0, 0xB1, 0xB2, 0xB3, 0xB4, 0xB5, 0xC1, 0xC4, 0xF0] →
    step s = .next { s with agenda := rest, outs := s.outs ++ [.ret (.status .errIllegal)] }

/-- Decoding an encoded operation or frame gives it back, every operand at every value the encoding admits. -/
def Obligations.DecodeOfEncodeIsIdentity : Prop :=
  ∀ i : Instr, i.formed = true → decode (encode i) = .instr i

/-- The other direction: a message that decodes is the encoding of what it decodes to, and so is a datagram of the
minimum length of its format; what decodes is formed. -/
def Obligations.EncodeOfDecodeIsIdentity : Prop :=
  (∀ a msg i, decode (.command a msg) = .instr i → encode i = .command a msg ∧ i.formed = true) ∧
  (∀ u d i, decode (.datagram u d) = .instr i → (if u.isNakOnly then 1 else 2) ≤ d.length →
    encode i = .datagram u d ∧ i.formed = true) ∧
  (∀ u d i, decode (.datagram u d) = .instr i → d.length < (if u.isNakOnly then 1 else 2) →
    i = rxInstr u d)

/-- R365: a port carries its own operations and no other: in a protocol unit function 1 comes from the channel, 2 from
a timer, 3 from the tick source, all else from the host. A message on another port is refused. -/
def Obligations.PortsCarryTheirOperations : Prop :=
  (∀ a (op : Byte) args i, decode (.command a (op :: args)) = .instr i →
    a = (if 3 ≤ op.toNat / 16 ∧ op.toNat / 16 ≤ 12 then
      (if op.toNat % 16 = 1 then .channel else if op.toNat % 16 = 2 then .timer
        else if op.toNat % 16 = 3 then .tick else .host)
      else .host)) ∧
  (∀ (s : State) o rest r, s.agenda = .offer o :: rest → decode o = .reject r →
    step s = .refused (.notACommand r))

/-! ## The Checksum Engine -/

/-- R131 to R137: what each `CRC` operation leaves in the register and answers. The shift is one step of long division
by `100000111`; the whole-sequence operations leave the checksum, or the residue, in the register and return the
checksum, or whether the residue is zero. -/
def Obligations.CrcOperationResults : Prop :=
  ∀ (s : State) (b : BitVec 1) (v : Byte) (d : Bytes),
    exec .crcClr s = .next { s with crc := 0x00, outs := s.outs ++ [.ret (.status .ok)] } ∧
    exec (.crcShift b) s = .next { s with
      crc := if s.crc.getLsbD 7 then ((s.crc <<< 1) ||| b.setWidth 8) ^^^ 0x07 else (s.crc <<< 1) ||| b.setWidth 8,
      outs := s.outs ++ [.ret (.status .ok)] } ∧
    exec (.crcByte v) s = .next { s with crc := crcStepByte s.crc v, outs := s.outs ++ [.ret (.status .ok)] } ∧
    exec .crcAug s = .next { s with crc := crcStepByte s.crc 0x00, outs := s.outs ++ [.ret (.status .ok)] } ∧
    exec .crcRead s = .next { s with outs := s.outs ++ [.ret (.byte s.crc)] } ∧
    exec (.crcCompute d) s = .next { s with
      crc := crcStepByte (d.foldl crcStepByte 0x00) 0x00,
      outs := s.outs ++ [.ret (.byte (crcStepByte (d.foldl crcStepByte 0x00) 0x00))] } ∧
    exec (.crcVerify d) s = .next { s with
      crc := d.foldl crcStepByte 0x00,
      outs := s.outs ++ [.ret (.truth (decide (d.foldl crcStepByte 0x00 = 0x00)))] }

/-- R118: each operation defined by expansion leaves the registers, and gives the last result, that its expansion does;
the frame names are the byte sequences they expand to. -/
def Obligations.CrcPseudoOperationsExpand : Prop :=
  (∀ (s : State) (v : Byte), ∃ (t t' : State) (rs rs' : List Output),
    exec (.crcByte v) s = .next t ∧
    execAll [Instr.crcShift (v.extractLsb' 7 1), .crcShift (v.extractLsb' 6 1), .crcShift (v.extractLsb' 5 1),
      .crcShift (v.extractLsb' 4 1), .crcShift (v.extractLsb' 3 1), .crcShift (v.extractLsb' 2 1),
      .crcShift (v.extractLsb' 1 1), .crcShift (v.extractLsb' 0 1)] s = .next t' ∧
    SameRegisters t t' ∧ t.outs = s.outs ++ rs ++ [Output.ret (.status .ok)] ∧
    t'.outs = s.outs ++ rs' ++ [Output.ret (.status .ok)]) ∧
  (∀ s : State, exec .crcAug s = exec (.crcByte 0x00) s) ∧
  (∀ (s : State) (d : Bytes) (ops : List Instr), ops = Instr.crcClr :: (d.map Instr.crcByte ++ [Instr.crcAug, .crcRead]) →
    ∃ (t t' : State) (rs : List Output) (v : Byte),
      exec (.crcCompute d) s = .next t ∧ execAll ops s = .next t' ∧
      SameRegisters t t' ∧ t.outs = s.outs ++ [Output.ret (.byte v)] ∧ t'.outs = s.outs ++ rs ++ [Output.ret (.byte v)]) ∧
  (∀ (s : State) (d : Bytes) (ops : List Instr), ops = Instr.crcClr :: (d.map Instr.crcByte ++ [Instr.crcRead]) →
    ∃ (t t' : State) (rs : List Output) (v : Byte),
      exec (.crcVerify d) s = .next t ∧ execAll ops s = .next t' ∧
      SameRegisters t t' ∧ t.outs = s.outs ++ [Output.ret (.truth (decide (v = 0x00)))] ∧
      t'.outs = s.outs ++ rs ++ [Output.ret (.byte v)]) ∧
  nak0Frame = [0x00] ∧
  (∀ q : Byte, ackFrame q = [q, 0x41, 0x43, 0x4B, crcCompute [q, 0x41, 0x43, 0x4B]] ∧
    nakFrame q = [q, 0x4E, 0x41, 0x4B, crcCompute [q, 0x4E, 0x41, 0x4B]])

/-- R139: a sequence with its checksum verifies, every single-bit flip of it fails, and verification is the comparison
of the last byte with the checksum of what stands before it. -/
def Obligations.ChecksumDetectsSingleBitErrors : Prop :=
  (∀ d : Bytes, crcVerify (d ++ [crcCompute d]) = true) ∧
  (∀ (d : Bytes) (n : Nat), n < 8 * (d.length + 1) →
    crcVerify ((d ++ [crcCompute d]).modify (n / 8) (fun v => v ^^^ (1#8 <<< (n % 8)))) = false) ∧
  (∀ (d : Bytes) (c : Byte), crcVerify (d ++ [c]) = true ↔ crcCompute d = c)

/-- R140: leading zero bytes do not change the checksum, and the empty sequence has checksum zero; the frame keeps the
exact length. -/
def Obligations.LeadingZerosKeepTheChecksum : Prop :=
  (∀ d : Bytes, crcCompute (0x00 :: d) = crcCompute d ∧ crcResidue (0x00 :: d) = crcResidue d) ∧
  crcCompute [] = 0x00 ∧ crcResidue [] = 0x00 ∧
  (∀ (q : Byte) (p : Bytes), encodeN p = p ++ [crcCompute p] ∧ (encodeN p).length = p.length + 1 ∧
    encodeS q p = (q :: p) ++ [crcCompute (q :: p)] ∧ (encodeS q p).length = p.length + 2)

/-- R141: the checksum is linear over exclusive-or, so two `Ack` frames differ in the checksum of the difference. -/
def Obligations.ChecksumIsLinear : Prop :=
  (∀ a b : Bytes, a.length = b.length →
    crcResidue (List.zipWith (· ^^^ ·) a b) = crcResidue a ^^^ crcResidue b ∧
    crcCompute (List.zipWith (· ^^^ ·) a b) = crcCompute a ^^^ crcCompute b) ∧
  (∀ q r : Byte, crcCompute [q, 0x41, 0x43, 0x4B] ^^^ crcCompute [r, 0x41, 0x43, 0x4B] =
    crcCompute [q ^^^ r, 0x00, 0x00, 0x00])

/-- R142: the byte-at-a-time form gives the checksum of the bit-serial form. -/
def Obligations.DirectFormEqualsCompute : Prop :=
  (∀ d : Bytes, crcComputeDirect d = crcCompute d) ∧
  ((List.range 16).map (fun v => crcCompute [BitVec.ofNat 8 v]) =
    [0x00, 0x07, 0x0E, 0x09, 0x1C, 0x1B, 0x12, 0x15, 0x38, 0x3F, 0x36, 0x31, 0x24, 0x23, 0x2A, 0x2D])

/-- R138: the residue is the remainder of the message polynomial, first bit highest, on division by
`x^8 + x^2 + x + 1` over GF(2), and the checksum that of the message times `x^8`. -/
def Obligations.ResidueIsPolynomialRemainder : Prop :=
  ∀ d : Bytes,
    let D : Polynomial (ZMod 2) :=
      (d.flatMap (fun v => ([7, 6, 5, 4, 3, 2, 1, 0] : List Nat).map (fun k => v.getLsbD k))).foldl
        (fun p b => p * Polynomial.X + (if b then 1 else 0)) 0
    let G : Polynomial (ZMod 2) := Polynomial.X ^ 8 + Polynomial.X ^ 2 + Polynomial.X + 1
    let packed : Byte → Polynomial (ZMod 2) := fun r =>
      (Finset.range 8).sum (fun k => if r.getLsbD k then Polynomial.X ^ k else 0)
    packed (crcResidue d) = D %ₘ G ∧ packed (crcCompute d) = (D * Polynomial.X ^ 8) %ₘ G

/-! ## The Frame Codec -/

/-- R172 to R175: a payload that fits gives the frame, a longer one `ERR_LEN`; decoding gives validity, sequence number
and decoded text, and a datagram too short for its format has none. No register changes. -/
def Obligations.FrmOperationResults : Prop :=
  ∀ (s : State) (q c : Byte) (p : Bytes),
    (p.length ≤ s.cfg.frameMax - 1 →
      exec (.frmEnc p) s = .next { s with outs := s.outs ++ [.ret (.frame (p ++ [crcCompute p]))] }) ∧
    (p.length > s.cfg.frameMax - 1 →
      exec (.frmEnc p) s = .next { s with outs := s.outs ++ [.ret (.status .errLen)] }) ∧
    (p.length ≤ s.cfg.frameMax - 2 →
      exec (.frmEncs q p) s =
        .next { s with outs := s.outs ++ [.ret (.frame ((q :: p) ++ [crcCompute (q :: p)]))] }) ∧
    (p.length > s.cfg.frameMax - 2 →
      exec (.frmEncs q p) s = .next { s with outs := s.outs ++ [.ret (.status .errLen)] }) ∧
    exec (.frmDec []) s = .next { s with outs := s.outs ++ [.ret (.decoded false none)] } ∧
    exec (.frmDec (p ++ [c])) s = .next { s with outs := s.outs ++
      [.ret (.decoded (crcVerify (p ++ [c])) (some (textDec s.cfg.textDec p)))] } ∧
    exec (.frmDecs []) s = .next { s with outs := s.outs ++ [.ret (.decodedSeq false none none)] } ∧
    exec (.frmDecs [c]) s = .next { s with outs := s.outs ++ [.ret (.decodedSeq false none none)] } ∧
    exec (.frmDecs (q :: (p ++ [c]))) s = .next { s with outs := s.outs ++
      [.ret (.decodedSeq (crcVerify (q :: (p ++ [c]))) (some q) (some (textDec s.cfg.textDec p)))] }

/-- R170: for every sequence number and every payload of well-formed UTF-8, under every permitted decoder, what is
encoded is valid and decodes to the number and the payload; for any payload, to its decoded text. -/
def Obligations.FrameRoundTrip : Prop :=
  ∀ (t : TextDecSel) (q : Byte) (p : Bytes),
    validS (encodeS q p) = true ∧ seqOf (encodeS q p) = q ∧
    textDec t (payloadS (encodeS q p)) = textDec t p ∧
    validN (encodeN p) = true ∧ textDec t (payloadN (encodeN p)) = textDec t p ∧
    (Utf8 p → textDec t (payloadS (encodeS q p)) = p ∧ textDec t (payloadN (encodeN p)) = p)

/-- R166: every configured decoder is the identity on well-formed UTF-8 and never lengthens; the default leaves only
well-formed UTF-8, copies a well-formed sequence, and drops a byte that starts none. -/
def Obligations.TextDecoderContract : Prop :=
  (∀ (t : TextDecSel) (b : Bytes), (Utf8 b → textDec t b = b) ∧ (textDec t b).length ≤ b.length) ∧
  (∀ b : Bytes, Utf8 (textDec .standard b)) ∧
  (∀ c rest : Bytes, Utf8Char c → textDec .standard (c ++ rest) = c ++ textDec .standard rest) ∧
  (∀ (v : Byte) (rest : Bytes), (¬ ∃ c tail, Utf8Char c ∧ v :: rest = c ++ tail) →
    textDec .standard (v :: rest) = textDec .standard rest)

/-- R168, R169: control frames are told apart by decoded text alone, under every permitted decoder. -/
def Obligations.ControlFramesClassify : Prop :=
  ∀ (t : TextDecSel) (q : Byte) (d : Bytes),
    isAck t (ackFrame q) = true ∧ isNak t (ackFrame q) = false ∧
    isAck t (nakFrame q) = false ∧ isNak t (nakFrame q) = true ∧
    isAck .standard (encodeS q [0x41, 0xFF, 0x43, 0x4B]) = true ∧
    (isNak t d = true ↔ 2 ≤ d.length ∧ crcVerify d = true ∧
      textDec t ((d.drop 1).take (d.length - 2)) = [0x4E, 0x41, 0x4B]) ∧
    (isAck t d = true ↔ 2 ≤ d.length ∧ crcVerify d = true ∧
      textDec t ((d.drop 1).take (d.length - 2)) = [0x41, 0x43, 0x4B])

/-! ## The window helper -/

/-- R192, R191: the answer of `WIN.TEST` on operands in range, normal, wrapped and full ring. -/
def Obligations.WinTestAnswers : Prop :=
  ∀ (s : State) (low high m v : Nat), low < m → high < m →
    exec (.winTest low high m v) s = .next { s with outs := s.outs ++ [.ret (.truth (decide
      (v < m ∧ ((low < high ∧ low ≤ v ∧ v < high) ∨ (high ≤ low ∧ (low ≤ v ∨ v < high))))))] }

/-- R194, R195: equal bounds are the full ring; a value at or above the modulus is in no window. -/
def Obligations.FullRingAndOutsideValues : Prop :=
  (∀ low m v : Nat, low < m → v < m → inWindow low low m v = true) ∧
  (∀ low high m v : Nat, m ≤ v → inWindow low high m v = false)

/-- R196: a window of `w` numbers holds its lower bound, not its upper, and exactly `w` values; it is the distance
test where the bounds differ. -/
def Obligations.WindowHoldsExactlyItsSize : Prop :=
  ∀ low w m : Nat, low < m → 0 < w → w < m →
    inWindow low ((low + w) % m) m ((low + w) % m) = false ∧
    inWindow low ((low + w) % m) m low = true ∧
    ((List.range m).filter (fun v => inWindow low ((low + w) % m) m v)).length = w ∧
    (∀ high v, high < m → v < m → high ≠ low →
      (inWindow low high m v = true ↔ seqDist low v m < seqDist low high m))

/-- R198: the receive window and the shadow window of Selective Repeat share no number, and `SR_MAX - 2 * SR_W` numbers
lie in neither. -/
def Obligations.SelectiveRepeatWindowsDisjoint : Prop :=
  ∀ oe w m : Nat, oe < m → 1 ≤ w → w ≤ m / 2 →
    (∀ v, ¬ (inWindow oe (seqAdd oe w m) m v = true ∧ inWindow (seqSub oe w m) oe m v = true)) ∧
    ((List.range m).filter (fun v => !inWindow oe (seqAdd oe w m) m v && !inWindow (seqSub oe w m) oe m v)).length
      = m - 2 * w

/-! ## The prologue, the fault, timers, shutdown -/

/-- R341, R356: the tests made before an operation, in their order. A `SEND` or `CANSEND` of a faulted unit answers
`ERR_FAULT`, of one with an illegal code it takes the fault and answers `ERR_FAULT`, of a closed one it answers
`ERR_CLOSED`; an `RX`, `TMO` or `TICK` of a faulted or closed unit is not enabled, of one with an illegal code it takes
the fault and emits nothing, whatever its enabling condition; a `STOP` makes the first two tests. -/
def Obligations.PrologueOfEveryOperation : Prop :=
  (∀ (i : Instr) (u : ProtUnit) (s : State), isSendOrCansend i = true → instrUnit i = some u →
    ((s.flags u).fault = true →
      exec i s = .next { s with outs := s.outs ++ [.ret (.status .errFault)] }) ∧
    ((s.flags u).fault = false → s.wf u = false →
      exec i s = .next { s.takeFault u 1 with outs := s.outs ++ [.ret (.status .errFault)] }) ∧
    ((s.flags u).fault = false → s.wf u = true → (s.flags u).closed = true →
      exec i s = .next { s with outs := s.outs ++ [.ret (.status .errClosed)] })) ∧
  (∀ (i : Instr) (u : ProtUnit) (s : State), isEvent i = true → instrUnit i = some u → i.inRange s.cfg = true →
    ((s.flags u).fault = true ∨ (s.flags u).closed = true → exec i s = .next s) ∧
    ((s.flags u).fault = false → (s.flags u).closed = false → s.wf u = false →
      exec i s = .next (s.takeFault u 1))) ∧
  (∀ (i : Instr) (u : ProtUnit) (s : State), isStop i = true → instrUnit i = some u →
    ((s.flags u).fault = true → exec i s = .next { s with outs := s.outs ++ [.ret (.status .errFault)] }) ∧
    ((s.flags u).fault = false → s.wf u = false →
      exec i s = .next { s.takeFault u 1 with outs := s.outs ++ [.ret (.status .errFault)] }))

/-- R343: what taking the fault writes, unit by unit: the flag, the cause and the timers; all else stays. -/
def Obligations.FaultEntryWrites : Prop :=
  ∀ (s : State) (c : BitVec 2),
    s.takeFault .swns c = { s with swns := { s.swns with
      timer := ⟨false, 0⟩, flags := ⟨s.swns.flags.closed, true, c⟩ } } ∧
    s.takeFault .swnr c = { s with swnr := { s.swnr with flags := ⟨s.swnr.flags.closed, true, c⟩ } } ∧
    s.takeFault .abps c = { s with abps := { s.abps with
      timer := ⟨false, 0⟩, flags := ⟨s.abps.flags.closed, true, c⟩ } } ∧
    s.takeFault .abpr c = { s with abpr := { s.abpr with flags := ⟨s.abpr.flags.closed, true, c⟩ } } ∧
    s.takeFault .pnas c = { s with pnas := { s.pnas with
      timer := ⟨false, 0⟩, flags := ⟨s.pnas.flags.closed, true, c⟩ } } ∧
    s.takeFault .pnar c = { s with pnar := { s.pnar with flags := ⟨s.pnar.flags.closed, true, c⟩ } } ∧
    s.takeFault .gbns c = { s with gbns := { s.gbns with
      timer := ⟨false, 0⟩, flags := ⟨s.gbns.flags.closed, true, c⟩ } } ∧
    s.takeFault .gbnr c = { s with gbnr := { s.gbnr with flags := ⟨s.gbnr.flags.closed, true, c⟩ } } ∧
    s.takeFault .srs c = { s with srs := { s.srs with
      timers := [], flags := ⟨s.srs.flags.closed, true, c⟩ } } ∧
    s.takeFault .srr c = { s with srr := { s.srr with flags := ⟨s.srr.flags.closed, true, c⟩ } }

/-- R344: every register of a faulted unit stays as it is under every operation but `SYS.RESET`, its own and the others',
and its own operations change no register of the block; its host operations answer `ERR_FAULT` and no other operation of
it is enabled; `SYS.RESET` resets the whole block. -/
def Obligations.FaultIsSticky : Prop :=
  (∀ (i : Instr) (u : ProtUnit) (s t : State), i ≠ .sysReset → (s.flags u).fault = true → exec i s = .next t →
    t.flags u = s.flags u ∧ SameUnit u s t ∧ (instrUnit i = some u → SameRegisters s t)) ∧
  (∀ (i : Instr) (u : ProtUnit) (s : State), instrUnit i = some u → (s.flags u).fault = true →
    (isSendOrCansend i = true ∨ isStop i = true) →
    exec i s = .next { s with outs := s.outs ++ [.ret (.status .errFault)] }) ∧
  (∀ (i : Instr) (u : ProtUnit) (s : State), instrUnit i = some u → (s.flags u).fault = true → isEvent i = true →
    accepts i s = false) ∧
  (∀ s : State, ∃ t, exec .sysReset s = .next t ∧ RegistersReset t)

/-- R340, R342: no step writes an illegal code, so a block without fault never faults. -/
def Obligations.NoStepFaults : Prop :=
  ∀ s t : State, s.cfg.valid = true → NoFaultAnywhere s → step s = .next t → NoFaultAnywhere t

/-- R356: `STOP` cancels the timers, closes the unit, keeps every other register, and reports a send in progress; on a
closed unit it answers `OK` and changes nothing that was as `STOP` left it. -/
def Obligations.StopClosesTheUnit : Prop :=
  ∀ s : State,
    (s.swns.flags.fault = false → s.wf .swns = true → exec .swnsStop s = .next { s with
      swns := { s.swns with timer := ⟨false, 0⟩, flags := { s.swns.flags with closed := true } },
      outs := s.outs ++ (if s.swns.state = 0b10#2 ∧ s.swns.flags.closed = false then
        [.done .swns .errClosed, .ret (.status .ok)] else [.ret (.status .ok)]) }) ∧
    (s.swnr.flags.fault = false → exec .swnrStop s = .next { s with
      swnr := { s.swnr with flags := { s.swnr.flags with closed := true } },
      outs := s.outs ++ [.ret (.status .ok)] }) ∧
    (s.abps.flags.fault = false → s.wf .abps = true → exec .abpsStop s = .next { s with
      abps := { s.abps with timer := ⟨false, 0⟩, flags := { s.abps.flags with closed := true } },
      outs := s.outs ++ (if s.abps.state = 0b10#2 ∧ s.abps.flags.closed = false then
        [.done .abps .errClosed, .ret (.status .ok)] else [.ret (.status .ok)]) }) ∧
    (s.abpr.flags.fault = false → exec .abprStop s = .next { s with
      abpr := { s.abpr with flags := { s.abpr.flags with closed := true } },
      outs := s.outs ++ [.ret (.status .ok)] }) ∧
    (s.pnas.flags.fault = false → s.wf .pnas = true → exec .pnasStop s = .next { s with
      pnas := { s.pnas with timer := ⟨false, 0⟩, flags := { s.pnas.flags with closed := true } },
      outs := s.outs ++ (if s.pnas.state = 0b10#2 ∧ s.pnas.flags.closed = false then
        [.done .pnas .errClosed, .ret (.status .ok)] else [.ret (.status .ok)]) }) ∧
    (s.pnar.flags.fault = false → exec .pnarStop s = .next { s with
      pnar := { s.pnar with flags := { s.pnar.flags with closed := true } },
      outs := s.outs ++ [.ret (.status .ok)] }) ∧
    (s.gbns.flags.fault = false → s.wf .gbns = true → exec .gbnsStop s = .next { s with
      gbns := { s.gbns with timer := ⟨false, 0⟩, flags := { s.gbns.flags with closed := true } },
      outs := s.outs ++ [.ret (.status .ok)] }) ∧
    (s.gbnr.flags.fault = false → s.wf .gbnr = true → exec .gbnrStop s = .next { s with
      gbnr := { s.gbnr with flags := { s.gbnr.flags with closed := true } },
      outs := s.outs ++ [.ret (.status .ok)] }) ∧
    (s.srs.flags.fault = false → s.wf .srs = true → exec .srsStop s = .next { s with
      srs := { s.srs with timers := [], flags := { s.srs.flags with closed := true } },
      outs := s.outs ++ [.ret (.status .ok)] }) ∧
    (s.srr.flags.fault = false → s.wf .srr = true → exec .srrStop s = .next { s with
      srr := { s.srr with flags := { s.srr.flags with closed := true } },
      outs := s.outs ++ [.ret (.status .ok)] })

/-- R353, R357: a tick counts a running timer down by one and leaves an idle or expired one; `SRS` counts all its
timers. No output. -/
def Obligations.TicksCountDown : Prop :=
  ∀ s : State,
    (Working .swns s → exec .swnsTick s = .next { s with swns := { s.swns with timer :=
      if s.swns.timer.armed = true ∧ s.swns.timer.cnt > 0 then ⟨true, s.swns.timer.cnt - 1⟩ else s.swns.timer } }) ∧
    (Working .abps s → exec .abpsTick s = .next { s with abps := { s.abps with timer :=
      if s.abps.timer.armed = true ∧ s.abps.timer.cnt > 0 then ⟨true, s.abps.timer.cnt - 1⟩ else s.abps.timer } }) ∧
    (Working .pnas s → exec .pnasTick s = .next { s with pnas := { s.pnas with timer :=
      if s.pnas.timer.armed = true ∧ s.pnas.timer.cnt > 0 then ⟨true, s.pnas.timer.cnt - 1⟩ else s.pnas.timer } }) ∧
    (Working .gbns s → exec .gbnsTick s = .next { s with gbns := { s.gbns with timer :=
      if s.gbns.timer.armed = true ∧ s.gbns.timer.cnt > 0 then ⟨true, s.gbns.timer.cnt - 1⟩ else s.gbns.timer } }) ∧
    (Working .srs s → ∃ a, exec .srsTick s = .next { s with srs := { s.srs with timers := a } } ∧
      (∀ k, k < s.cfg.srMax → timerAt a k =
        if (timerAt s.srs.timers k).armed = true ∧ (timerAt s.srs.timers k).cnt > 0
        then ⟨true, (timerAt s.srs.timers k).cnt - 1⟩ else timerAt s.srs.timers k) ∧
      (∀ k, s.cfg.srMax ≤ k → timerAt a k = timerAt s.srs.timers k))

/-- R353, R354, R357: in each of the five senders a timer at `T` is expired after exactly `T` ticks and not before, and
more ticks leave it so; in `SRS` every timer counts from its own start. -/
def Obligations.TimerExpiresAtTheTthTick : Prop :=
  (∀ (T n : Nat) (s : State), Working .swns s → s.swns.timer = ⟨true, T⟩ →
    ∃ t, execAll (List.replicate n .swnsTick) s = .next t ∧
      t = { s with swns := { s.swns with timer := ⟨true, T - n⟩ } } ∧ (accepts .swnsTmo t = true ↔ T ≤ n)) ∧
  (∀ (T n : Nat) (s : State), Working .abps s → s.abps.timer = ⟨true, T⟩ →
    ∃ t, execAll (List.replicate n .abpsTick) s = .next t ∧
      t = { s with abps := { s.abps with timer := ⟨true, T - n⟩ } } ∧ (accepts .abpsTmo t = true ↔ T ≤ n)) ∧
  (∀ (T n : Nat) (s : State), Working .pnas s → s.pnas.timer = ⟨true, T⟩ →
    ∃ t, execAll (List.replicate n .pnasTick) s = .next t ∧
      t = { s with pnas := { s.pnas with timer := ⟨true, T - n⟩ } } ∧ (accepts .pnasTmo t = true ↔ T ≤ n)) ∧
  (∀ (T n : Nat) (s : State), Working .gbns s → s.gbns.timer = ⟨true, T⟩ →
    ∃ t, execAll (List.replicate n .gbnsTick) s = .next t ∧
      t = { s with gbns := { s.gbns with timer := ⟨true, T - n⟩ } } ∧ (accepts .gbnsTmo t = true ↔ T ≤ n)) ∧
  (∀ (n : Nat) (s : State), Working .srs s →
    ∃ (t : State) (a : TimerArray), execAll (List.replicate n .srsTick) s = .next t ∧
      t = { s with srs := { s.srs with timers := a } } ∧
      ∀ k, k < s.cfg.srMax →
        (∀ T, timerAt s.srs.timers k = ⟨true, T⟩ →
          timerAt a k = ⟨true, T - n⟩ ∧ (accepts (.srsTmo k) t = true ↔ T ≤ n)) ∧
        ((timerAt s.srs.timers k).armed = false →
          timerAt a k = timerAt s.srs.timers k ∧ accepts (.srsTmo k) t = false))

/-! ## Stop-and-wait -/

/-- R211 to R213: the NAK-only sender. With `txbuf` empty, which only a launch state has, what is handed over is free:
nothing, or one datagram within `FRAME_MAX` (A10). -/
def Obligations.NakOnlySender : Prop :=
  ∀ (s : State) (p d : Bytes), Working .swns s →
    (s.swns.state = 0b01#2 → p.length ≤ s.cfg.frameMax - 1 → exec (.swnsSend p) s = .next { s with
      swns := { s.swns with state := 0b10#2, txbuf := some (p ++ [crcCompute p]), timer := ⟨true, s.cfg.tSwn⟩ },
      outs := s.outs ++ [.tx .swns (p ++ [crcCompute p]), .ret (.status .ok)],
      wire := s.wire ++ [(.swnr, p ++ [crcCompute p])] }) ∧
    (s.swns.state = 0b01#2 → p.length > s.cfg.frameMax - 1 →
      exec (.swnsSend p) s = .next { s with outs := s.outs ++ [.ret (.status .errLen)] }) ∧
    (s.swns.state = 0b10#2 → exec (.swnsSend p) s = .next s) ∧
    (s.swns.state = 0b10#2 → ∀ f, s.swns.txbuf = some f → exec (.swnsRx d) s = .next { s with
      swns := { s.swns with timer := ⟨true, s.cfg.tSwn⟩ },
      outs := s.outs ++ [.tx .swns f], wire := s.wire ++ [(.swnr, f)] }) ∧
    (s.swns.state = 0b01#2 → exec (.swnsRx d) s = .next s) ∧
    (s.swns.state = 0b10#2 → s.swns.txbuf = none → ∃ (new : List Output) (n : Nat),
      (new = [] ∨ ∃ f : Bytes, f.length ≤ s.cfg.frameMax ∧ new = [Output.tx .swns f]) ∧
      exec (.swnsRx d) s = .next { s with
        swns := { s.swns with timer := ⟨true, s.cfg.tSwn⟩ },
        outs := s.outs ++ new, wire := s.wire ++ datagramsOf new, draws := n }) ∧
    (s.swns.timer = ⟨true, 0⟩ → exec .swnsTmo s = .next { s with
      swns := { s.swns with state := 0b01#2, timer := ⟨false, 0⟩ }, outs := s.outs ++ [.done .swns .ok] }) ∧
    (s.swns.timer.armed = false ∨ 0 < s.swns.timer.cnt → exec .swnsTmo s = .next s)

/-- R214: the NAK-only receiver. -/
def Obligations.NakOnlyReceiver : Prop :=
  ∀ (s : State) (d : Bytes), Working .swnr s →
    (1 ≤ d.length → crcVerify d = true → exec (.swnrRx d) s = .next { s with
      outs := s.outs ++ [.deliver .swnr (textDec s.cfg.textDec d.dropLast)] }) ∧
    (d.length = 0 ∨ crcVerify d = false → exec (.swnrRx d) s = .next { s with
      outs := s.outs ++ [.tx .swnr [0x00]], wire := s.wire ++ [(.swns, [0x00])] })

/-- R220 to R222: the alternating-bit sender. With `txbuf` empty, which only a launch state has, what is handed over is
free: nothing, or one datagram within `FRAME_MAX` (A10). -/
def Obligations.AlternatingBitSender : Prop :=
  ∀ (s : State) (p d : Bytes), Working .abps s →
    (s.abps.state = 0b01#2 → p.length ≤ s.cfg.frameMax - 2 → ∀ f,
      f = (s.abps.seq.setWidth 8 :: p) ++ [crcCompute (s.abps.seq.setWidth 8 :: p)] →
      exec (.abpsSend p) s = .next { s with
        abps := { s.abps with state := 0b10#2, txbuf := some f, timer := ⟨true, s.cfg.tAbp⟩ },
        outs := s.outs ++ [.tx .abps f, .ret (.status .ok)], wire := s.wire ++ [(.abpr, f)] }) ∧
    (s.abps.state = 0b01#2 → p.length > s.cfg.frameMax - 2 →
      exec (.abpsSend p) s = .next { s with outs := s.outs ++ [.ret (.status .errLen)] }) ∧
    (s.abps.state = 0b10#2 → exec (.abpsSend p) s = .next s) ∧
    (s.abps.state = 0b10#2 → isAck s.cfg.textDec d = true → (seqOf d).toNat = s.abps.seq.toNat →
      exec (.abpsRx d) s = .next { s with
        abps := { s.abps with state := 0b01#2, seq := ~~~ s.abps.seq, timer := ⟨false, 0⟩ },
        outs := s.outs ++ [.done .abps .ok] }) ∧
    (s.abps.state = 0b01#2 ∨ isAck s.cfg.textDec d = false ∨ (seqOf d).toNat ≠ s.abps.seq.toNat →
      exec (.abpsRx d) s = .next s) ∧
    (s.abps.timer = ⟨true, 0⟩ → ∀ f, s.abps.txbuf = some f → exec .abpsTmo s = .next { s with
      abps := { s.abps with timer := ⟨true, s.cfg.tAbp⟩ },
      outs := s.outs ++ [.tx .abps f], wire := s.wire ++ [(.abpr, f)] }) ∧
    (s.abps.timer = ⟨true, 0⟩ → s.abps.txbuf = none → ∃ (new : List Output) (n : Nat),
      (new = [] ∨ ∃ f : Bytes, f.length ≤ s.cfg.frameMax ∧ new = [Output.tx .abps f]) ∧
      exec .abpsTmo s = .next { s with
        abps := { s.abps with timer := ⟨true, s.cfg.tAbp⟩ },
        outs := s.outs ++ new, wire := s.wire ++ datagramsOf new, draws := n }) ∧
    (s.abps.timer.armed = false ∨ 0 < s.abps.timer.cnt → exec .abpsTmo s = .next s)

/-- R223: the alternating-bit receiver. -/
def Obligations.AlternatingBitReceiver : Prop :=
  ∀ (s : State) (d : Bytes), Working .abpr s →
    (validS d = true → (seqOf d).toNat = s.abpr.expected.toNat → exec (.abprRx d) s = .next { s with
      abpr := { s.abpr with expected := ~~~ s.abpr.expected },
      outs := s.outs ++ [.deliver .abpr (textDec s.cfg.textDec d.tail.dropLast),
        .tx .abpr (ackFrame (s.abpr.expected.setWidth 8))],
      wire := s.wire ++ [(.abps, ackFrame (s.abpr.expected.setWidth 8))] }) ∧
    (validS d = false ∨ (seqOf d).toNat ≠ s.abpr.expected.toNat → exec (.abprRx d) s = .next { s with
      outs := s.outs ++ [.tx .abpr (ackFrame ((~~~ s.abpr.expected).setWidth 8))],
      wire := s.wire ++ [(.abps, ackFrame ((~~~ s.abpr.expected).setWidth 8))] })

/-- R230 to R232: the positive-and-negative-acknowledgment sender. With `txbuf` empty, which only a launch state has,
what is handed over is free: nothing, or one datagram within `FRAME_MAX` (A10). -/
def Obligations.PosNegSender : Prop :=
  ∀ (s : State) (p d : Bytes), Working .pnas s →
    (s.pnas.state = 0b01#2 → p.length ≤ s.cfg.frameMax - 2 → ∀ f,
      f = (s.pnas.seq.setWidth 8 :: p) ++ [crcCompute (s.pnas.seq.setWidth 8 :: p)] →
      exec (.pnasSend p) s = .next { s with
        pnas := { s.pnas with state := 0b10#2, txbuf := some f, timer := ⟨true, s.cfg.tPna⟩ },
        outs := s.outs ++ [.tx .pnas f, .ret (.status .ok)], wire := s.wire ++ [(.pnar, f)] }) ∧
    (s.pnas.state = 0b01#2 → p.length > s.cfg.frameMax - 2 →
      exec (.pnasSend p) s = .next { s with outs := s.outs ++ [.ret (.status .errLen)] }) ∧
    (s.pnas.state = 0b10#2 → exec (.pnasSend p) s = .next s) ∧
    (s.pnas.state = 0b10#2 → isAck s.cfg.textDec d = true → exec (.pnasRx d) s = .next { s with
      pnas := { s.pnas with state := 0b01#2, seq := ~~~ s.pnas.seq, timer := ⟨false, 0⟩ },
      outs := s.outs ++ [.done .pnas .ok] }) ∧
    (s.pnas.state = 0b10#2 → isAck s.cfg.textDec d = false → ∀ f, s.pnas.txbuf = some f →
      exec (.pnasRx d) s = .next { s with
        pnas := { s.pnas with timer := ⟨true, s.cfg.tPna⟩ },
        outs := s.outs ++ [.tx .pnas f], wire := s.wire ++ [(.pnar, f)] }) ∧
    (s.pnas.state = 0b01#2 → exec (.pnasRx d) s = .next s) ∧
    (s.pnas.state = 0b10#2 → isAck s.cfg.textDec d = false → s.pnas.txbuf = none → ∃ (new : List Output) (n : Nat),
      (new = [] ∨ ∃ f : Bytes, f.length ≤ s.cfg.frameMax ∧ new = [Output.tx .pnas f]) ∧
      exec (.pnasRx d) s = .next { s with
        pnas := { s.pnas with timer := ⟨true, s.cfg.tPna⟩ },
        outs := s.outs ++ new, wire := s.wire ++ datagramsOf new, draws := n }) ∧
    (s.pnas.timer = ⟨true, 0⟩ → s.pnas.txbuf = none → ∃ (new : List Output) (n : Nat),
      (new = [] ∨ ∃ f : Bytes, f.length ≤ s.cfg.frameMax ∧ new = [Output.tx .pnas f]) ∧
      exec .pnasTmo s = .next { s with
        pnas := { s.pnas with timer := ⟨true, s.cfg.tPna⟩ },
        outs := s.outs ++ new, wire := s.wire ++ datagramsOf new, draws := n }) ∧
    (s.pnas.timer = ⟨true, 0⟩ → ∀ f, s.pnas.txbuf = some f → exec .pnasTmo s = .next { s with
      pnas := { s.pnas with timer := ⟨true, s.cfg.tPna⟩ },
      outs := s.outs ++ [.tx .pnas f], wire := s.wire ++ [(.pnar, f)] }) ∧
    (s.pnas.timer.armed = false ∨ 0 < s.pnas.timer.cnt → exec .pnasTmo s = .next s)

/-- R233: the positive-and-negative-acknowledgment receiver; the checksum is tested before the number. -/
def Obligations.PosNegReceiver : Prop :=
  ∀ (s : State) (d : Bytes), Working .pnar s →
    (validS d = false → exec (.pnarRx d) s = .next { s with
      outs := s.outs ++ [.tx .pnar (nakFrame (s.pnar.expected.setWidth 8))],
      wire := s.wire ++ [(.pnas, nakFrame (s.pnar.expected.setWidth 8))] }) ∧
    (validS d = true → (seqOf d).toNat = s.pnar.expected.toNat → exec (.pnarRx d) s = .next { s with
      pnar := { s.pnar with expected := ~~~ s.pnar.expected },
      outs := s.outs ++ [.deliver .pnar (textDec s.cfg.textDec d.tail.dropLast),
        .tx .pnar (ackFrame (s.pnar.expected.setWidth 8))],
      wire := s.wire ++ [(.pnas, ackFrame (s.pnar.expected.setWidth 8))] }) ∧
    (validS d = true → (seqOf d).toNat ≠ s.pnar.expected.toNat → exec (.pnarRx d) s = .next { s with
      outs := s.outs ++ [.tx .pnar (ackFrame (seqOf d))], wire := s.wire ++ [(.pnas, ackFrame (seqOf d))] })

/-- R46: the invariant of the stop-and-wait senders and of `GBNR` holds after reset, under any configuration of this
hardware, and every step keeps it. -/
def Obligations.StopAndWaitInvariantKept : Prop :=
  (∀ s : State, s.cfg.valid = true → RegistersReset s → StopAndWaitInv s) ∧
  (∀ s t : State, s.cfg.valid = true → StopAndWaitInv s → step s = .next t → StopAndWaitInv t)

/-- R241: when a frame of the waiting sender reaches its receiver unchanged and the reply comes back unchanged, the
sender reports `done(OK)`, whether the frame was new to the receiver or a duplicate. -/
def Obligations.CleanExchangeCompletesTheSend : Prop :=
  (∀ (s : State) (p : Bytes), Working .abps s → Working .abpr s → s.abps.state = 0b10#2 →
    s.abps.txbuf = some (encodeS (s.abps.seq.setWidth 8) p) →
    ∃ t u r, exec (.abprRx (encodeS (s.abps.seq.setWidth 8) p)) s = .next t ∧
      t.wire = s.wire ++ [(.abps, r)] ∧ exec (.abpsRx r) t = .next u ∧
      u.abps.state = 0b01#2 ∧ u.abps.seq = ~~~ s.abps.seq ∧ u.outs = t.outs ++ [.done .abps .ok]) ∧
  (∀ (s : State) (p : Bytes), Working .pnas s → Working .pnar s → s.pnas.state = 0b10#2 →
    s.pnas.txbuf = some (encodeS (s.pnas.seq.setWidth 8) p) →
    ∃ t u r, exec (.pnarRx (encodeS (s.pnas.seq.setWidth 8) p)) s = .next t ∧
      t.wire = s.wire ++ [(.pnas, r)] ∧ exec (.pnasRx r) t = .next u ∧
      u.pnas.state = 0b01#2 ∧ u.pnas.seq = ~~~ s.pnas.seq ∧ u.outs = t.outs ++ [.done .pnas .ok])

/-! ## Go-Back-N -/

/-- R261, R291: the answer of `CANSEND` is whether `nextToSend` lies in the window from `oldestUnacked` on, which is
whether fewer numbers than the window's size are in flight. -/
def Obligations.CansendAnswers : Prop :=
  ∀ s : State, s.cfg.valid = true →
    (Working .gbns s →
      exec .gbnsCansend s = .next { s with outs := s.outs ++ [.ret (.truth (inWindow s.gbns.oldestUnacked
        ((s.gbns.oldestUnacked + s.cfg.gbnW) % s.cfg.gbnMax) s.cfg.gbnMax s.gbns.nextToSend))] } ∧
      exec .gbnsCansend s = .next { s with outs := s.outs ++ [.ret (.truth (decide (gbnInFlight s < s.cfg.gbnW)))] }) ∧
    (Working .srs s →
      exec .srsCansend s = .next { s with outs := s.outs ++ [.ret (.truth (inWindow s.srs.oldestUnacked
        ((s.srs.oldestUnacked + s.cfg.srW) % s.cfg.srMax) s.cfg.srMax s.srs.nextToSend))] } ∧
      exec .srsCansend s = .next { s with outs := s.outs ++ [.ret (.truth (decide (srInFlight s < s.cfg.srW)))] })

/-- R262: `GBNS.SEND` stores the frame in the slot of its number, transmits it, advances, and starts the timer only
when nothing was in flight; a long payload answers `ERR_LEN`; a full window holds it. -/
def Obligations.GbnsSendEffect : Prop :=
  ∀ (s : State) (p f : Bytes), Working .gbns s → s.cfg.valid = true →
    f = (BitVec.ofNat 8 s.gbns.nextToSend :: p) ++ [crcCompute (BitVec.ofNat 8 s.gbns.nextToSend :: p)] →
    (gbnInFlight s < s.cfg.gbnW → p.length ≤ s.cfg.frameMax - 2 → ∃ a, exec (.gbnsSend p) s = .next { s with
        gbns := { s.gbns with frames := a, nextToSend := (s.gbns.nextToSend + 1) % s.cfg.gbnMax, timer :=
          if s.gbns.oldestUnacked = s.gbns.nextToSend then ⟨true, s.cfg.tGbn⟩ else s.gbns.timer },
        outs := s.outs ++ [.tx .gbns f, .ret (.status .ok)], wire := s.wire ++ [(.gbnr, f)] } ∧
      memRead a s.gbns.nextToSend = some f ∧
      ∀ k, k ≠ s.gbns.nextToSend → memRead a k = memRead s.gbns.frames k) ∧
    (gbnInFlight s < s.cfg.gbnW → p.length > s.cfg.frameMax - 2 →
      exec (.gbnsSend p) s = .next { s with outs := s.outs ++ [.ret (.status .errLen)] }) ∧
    (s.cfg.gbnW ≤ gbnInFlight s → exec (.gbnsSend p) s = .next s)

/-- R263: a cumulative acknowledgment of a number in flight clears the slots from `oldestUnacked` through it, moves
`oldestUnacked` past it, and cancels or restarts the timer; any other datagram is discarded. -/
def Obligations.GbnsAckIsCumulative : Prop :=
  ∀ (s : State) (d : Bytes) (q : Nat), Working .gbns s → q = (seqOf d).toNat →
    (isAck s.cfg.textDec d = true → q < s.cfg.gbnMax → (memRead s.gbns.frames q).isSome = true →
      ∃ a, exec (.gbnsRx d) s = .next { s with gbns := { s.gbns with
          oldestUnacked := (q + 1) % s.cfg.gbnMax, frames := a,
          timer := if (q + 1) % s.cfg.gbnMax = s.gbns.nextToSend then ⟨false, 0⟩ else ⟨true, s.cfg.tGbn⟩ } } ∧
        ∀ k, memRead a k =
          if k < s.cfg.gbnMax ∧ (k + s.cfg.gbnMax - s.gbns.oldestUnacked) % s.cfg.gbnMax ≤
            (q + s.cfg.gbnMax - s.gbns.oldestUnacked) % s.cfg.gbnMax
          then none else memRead s.gbns.frames k) ∧
    (isAck s.cfg.textDec d = false ∨ s.cfg.gbnMax ≤ q ∨ memRead s.gbns.frames q = none →
      exec (.gbnsRx d) s = .next s)

/-- R264: a timeout restarts the timer and transmits every frame from `oldestUnacked` up to `nextToSend`, in that
order; without an expired timer nothing happens. -/
def Obligations.GbnsTimeoutResendsTheWindow : Prop :=
  ∀ (s : State) (fs : List Bytes), Working .gbns s →
    fs = (List.range (gbnInFlight s)).filterMap (fun j =>
      memRead s.gbns.frames ((s.gbns.oldestUnacked + j) % s.cfg.gbnMax)) →
    (s.gbns.timer = ⟨true, 0⟩ → exec .gbnsTmo s = .next { s with
      gbns := { s.gbns with timer := ⟨true, s.cfg.tGbn⟩ },
      outs := s.outs ++ fs.map (fun f => .tx .gbns f), wire := s.wire ++ fs.map (fun f => (.gbnr, f)) }) ∧
    (s.gbns.timer.armed = false ∨ 0 < s.gbns.timer.cnt → exec .gbnsTmo s = .next s)

/-- R265: the Go-Back-N receiver. -/
def Obligations.GbnReceiver : Prop :=
  ∀ (s : State) (d a : Bytes), Working .gbnr s → a = ackFrame (BitVec.ofNat 8 s.gbnr.expected) →
    (validS d = true → (seqOf d).toNat = s.gbnr.expected → exec (.gbnrRx d) s = .next { s with
      gbnr := { s.gbnr with expected := (s.gbnr.expected + 1) % s.cfg.gbnMax, lastAck := some a },
      outs := s.outs ++ [.deliver .gbnr (textDec s.cfg.textDec d.tail.dropLast), .tx .gbnr a],
      wire := s.wire ++ [(.gbns, a)] }) ∧
    (validS d = false ∨ (seqOf d).toNat ≠ s.gbnr.expected → s.gbnr.lastAck = none →
      exec (.gbnrRx d) s = .next s) ∧
    (validS d = false ∨ (seqOf d).toNat ≠ s.gbnr.expected → ∀ b, s.gbnr.lastAck = some b →
      exec (.gbnrRx d) s = .next { s with outs := s.outs ++ [.tx .gbnr b], wire := s.wire ++ [(.gbns, b)] })

/-- R266: after sending four frames and receiving a single `Ack` for the third, the fourth alone is outstanding, and a
timeout transmits it alone. -/
def Obligations.GoBackNCumulativeScenario : Prop :=
  ∀ (s : State) (p0 p1 p2 p3 : Bytes), Working .gbns s → s.cfg.valid = true → 4 ≤ s.cfg.gbnW →
    s.gbns.oldestUnacked = 0 → s.gbns.nextToSend = 0 → s.gbns.frames = [] →
    p0.length ≤ s.cfg.frameMax - 2 → p1.length ≤ s.cfg.frameMax - 2 → p2.length ≤ s.cfg.frameMax - 2 →
    p3.length ≤ s.cfg.frameMax - 2 →
    ∃ t u, execAll [.gbnsSend p0, .gbnsSend p1, .gbnsSend p2, .gbnsSend p3, .gbnsRx (ackFrame 2)] s = .next t ∧
      t.gbns.oldestUnacked = 3 ∧ memRead t.gbns.frames 3 = some (encodeS 3 p3) ∧
      (∀ k, k ≠ 3 → memRead t.gbns.frames k = none) ∧
      execAll (List.replicate s.cfg.tGbn .gbnsTick ++ [.gbnsTmo]) t = .next u ∧
      u.outs = t.outs ++ [.tx .gbns (encodeS 3 p3)]

/-- R43: the invariant of `GBNS` holds after reset, under any configuration of this hardware, and every step keeps it. -/
def Obligations.GbnsInvariantKept : Prop :=
  (∀ s : State, s.cfg.valid = true → RegistersReset s → GbnsInv s) ∧
  (∀ s t : State, s.cfg.valid = true → GbnsInv s → step s = .next t → GbnsInv t)

/-! ## Selective Repeat -/

/-- R292: `SRS.SEND` stores, transmits, starts the slot's own timer, advances. -/
def Obligations.SrsSendEffect : Prop :=
  ∀ (s : State) (p f : Bytes), Working .srs s → s.cfg.valid = true →
    f = (BitVec.ofNat 8 s.srs.nextToSend :: p) ++ [crcCompute (BitVec.ofNat 8 s.srs.nextToSend :: p)] →
    (srInFlight s < s.cfg.srW → p.length ≤ s.cfg.frameMax - 2 → ∃ a b, exec (.srsSend p) s = .next { s with
        srs := { s.srs with frames := a, timers := b, nextToSend := (s.srs.nextToSend + 1) % s.cfg.srMax },
        outs := s.outs ++ [.tx .srs f, .ret (.status .ok)], wire := s.wire ++ [(.srr, f)] } ∧
      memRead a s.srs.nextToSend = some f ∧ timerAt b s.srs.nextToSend = ⟨true, s.cfg.tSr⟩ ∧
      ∀ k, k ≠ s.srs.nextToSend →
        memRead a k = memRead s.srs.frames k ∧ timerAt b k = timerAt s.srs.timers k) ∧
    (srInFlight s < s.cfg.srW → p.length > s.cfg.frameMax - 2 →
      exec (.srsSend p) s = .next { s with outs := s.outs ++ [.ret (.status .errLen)] }) ∧
    (s.cfg.srW ≤ srInFlight s → exec (.srsSend p) s = .next s)

/-- R293: an acknowledgment inside the send window clears its slot and cancels its timer, and slides `oldestUnacked`
past acknowledged slots when it was the oldest; any other datagram is discarded. -/
def Obligations.SrsAckIsIndividual : Prop :=
  ∀ (s : State) (d : Bytes) (q : Nat), Working .srs s → s.cfg.valid = true → q = (seqOf d).toNat →
    (isAck s.cfg.textDec d = true → q < s.cfg.srMax →
      (q + s.cfg.srMax - s.srs.oldestUnacked) % s.cfg.srMax < s.cfg.srW →
      ∃ a b base n, exec (.srsRx d) s = .next { s with srs := { s.srs with
          frames := a, timers := b, oldestUnacked := base } } ∧
        memRead a q = none ∧ timerAt b q = ⟨false, 0⟩ ∧
        (∀ k, k ≠ q → memRead a k = memRead s.srs.frames k ∧ timerAt b k = timerAt s.srs.timers k) ∧
        (q ≠ s.srs.oldestUnacked → base = s.srs.oldestUnacked) ∧
        (q = s.srs.oldestUnacked → n ≤ srInFlight s ∧ base = (s.srs.oldestUnacked + n) % s.cfg.srMax ∧
          (∀ j, j < n → memRead a ((s.srs.oldestUnacked + j) % s.cfg.srMax) = none) ∧
          (n = srInFlight s ∨ (memRead a base).isSome = true))) ∧
    (isAck s.cfg.textDec d = false ∨ s.cfg.srMax ≤ q ∨
      s.cfg.srW ≤ (q + s.cfg.srMax - s.srs.oldestUnacked) % s.cfg.srMax → exec (.srsRx d) s = .next s)

/-- R294: a timeout of slot `k` restarts that timer and transmits that frame; a timer that has not expired gives
nothing; a slot that does not exist is a fault (A15). -/
def Obligations.SrsTimeoutResendsOneFrame : Prop :=
  ∀ (s : State) (k : Nat),
    (Working .srs s → k < s.cfg.srMax → timerAt s.srs.timers k = ⟨true, 0⟩ → ∀ f, memRead s.srs.frames k = some f →
      ∃ b, exec (.srsTmo k) s = .next { s with
          srs := { s.srs with timers := b },
          outs := s.outs ++ [.tx .srs f], wire := s.wire ++ [(.srr, f)] } ∧
        timerAt b k = ⟨true, s.cfg.tSr⟩ ∧ ∀ j, j ≠ k → timerAt b j = timerAt s.srs.timers j) ∧
    (Working .srs s → k < s.cfg.srMax → timerAt s.srs.timers k = ⟨true, 0⟩ → memRead s.srs.frames k = none →
      ∃ b, exec (.srsTmo k) s = .next { s with srs := { s.srs with timers := b } } ∧
        timerAt b k = ⟨true, s.cfg.tSr⟩ ∧ ∀ j, j ≠ k → timerAt b j = timerAt s.srs.timers j) ∧
    (Working .srs s → k < s.cfg.srMax → (timerAt s.srs.timers k).armed = false ∨ 0 < (timerAt s.srs.timers k).cnt →
      exec (.srsTmo k) s = .next s) ∧
    (s.cfg.srMax ≤ k → exec (.srsTmo k) s = .fault .noSuchSlot)

/-- R295: the Selective Repeat receiver, in its three cases. In case (a) the payload is buffered, its `ACK` stored and
sent, and from the expected number on the consecutive payloads, at most `SR_W`, are delivered and cleared. -/
def Obligations.SrrReceives : Prop :=
  ∀ (s : State) (d : Bytes) (q : Nat), Working .srr s → s.cfg.valid = true → q = (seqOf d).toNat →
    (validS d = true → q < s.cfg.srMax → (q + s.cfg.srMax - s.srr.oldestExpected) % s.cfg.srMax < s.cfg.srW →
      ∃ (b c : SlotArray) (n oe : Nat) (ps : List Bytes), exec (.srrRx d) s = .next { s with
          srr := { s.srr with reorder := b, acks := c, oldestExpected := oe },
          outs := s.outs ++ (Output.tx .srr (ackFrame (seqOf d)) :: ps.map (Output.deliver .srr)),
          wire := s.wire ++ [(.srs, ackFrame (seqOf d))] } ∧
        memRead c q = some (ackFrame (seqOf d)) ∧ (∀ k, k ≠ q → memRead c k = memRead s.srr.acks k) ∧
        n ≤ s.cfg.srW ∧ oe = (s.srr.oldestExpected + n) % s.cfg.srMax ∧ ps.length = n ∧
        (∀ j, j < n → some (ps.getD j []) =
          (if (s.srr.oldestExpected + j) % s.cfg.srMax = q then some (textDec s.cfg.textDec d.tail.dropLast)
            else memRead s.srr.reorder ((s.srr.oldestExpected + j) % s.cfg.srMax))) ∧
        (∀ k, memRead b k =
          if ∃ j, j < n ∧ k = (s.srr.oldestExpected + j) % s.cfg.srMax then none
          else if k = q then some (textDec s.cfg.textDec d.tail.dropLast) else memRead s.srr.reorder k) ∧
        (q ≠ s.srr.oldestExpected → n = 0) ∧
        (q = s.srr.oldestExpected → 0 < n ∧ (n = s.cfg.srW ∨ memRead b oe = none))) ∧
    (validS d = true → q < s.cfg.srMax →
      s.cfg.srMax - s.cfg.srW ≤ (q + s.cfg.srMax - s.srr.oldestExpected) % s.cfg.srMax →
      (∀ a, memRead s.srr.acks q = some a → exec (.srrRx d) s = .next { s with
        outs := s.outs ++ [.tx .srr a], wire := s.wire ++ [(.srs, a)] }) ∧
      (memRead s.srr.acks q = none → exec (.srrRx d) s = .next s)) ∧
    (validS d = false ∨ s.cfg.srMax ≤ q ∨
      (s.cfg.srW ≤ (q + s.cfg.srMax - s.srr.oldestExpected) % s.cfg.srMax ∧
        (q + s.cfg.srMax - s.srr.oldestExpected) % s.cfg.srMax < s.cfg.srMax - s.cfg.srW) →
      exec (.srrRx d) s = .next s)

/-- R44: the invariant of `SRS` holds after reset, under any configuration of this hardware, and every step keeps it. -/
def Obligations.SrsInvariantKept : Prop :=
  (∀ s : State, s.cfg.valid = true → RegistersReset s → SrsInv s) ∧
  (∀ s t : State, s.cfg.valid = true → SrsInv s → step s = .next t → SrsInv t)

/-- R45 (a) to (c), R297: the invariant of `SRR` holds after reset and every step keeps it. -/
def Obligations.SrrInvariantKept : Prop :=
  (∀ s : State, s.cfg.valid = true → RegistersReset s → SrrInv s) ∧
  (∀ s t : State, s.cfg.valid = true → SrrInv s → step s = .next t → SrrInv t)

/-- R296: after frames 0, 1, 2 and the `ACK`s of 0 and 2 only, frame 1's timer expires and its timeout transmits exactly
frame 1; a receiver that gets frame 2 before frame 1 delivers the payloads in the order 0, 1, 2. -/
def Obligations.SelectiveRepeatIndependentScenario : Prop :=
  (∀ (s : State) (p0 p1 p2 : Bytes), Working .srs s → s.cfg.valid = true → 3 ≤ s.cfg.srW →
    s.srs.oldestUnacked = 0 → s.srs.nextToSend = 0 → s.srs.frames = [] → s.srs.timers = [] →
    p0.length ≤ s.cfg.frameMax - 2 → p1.length ≤ s.cfg.frameMax - 2 → p2.length ≤ s.cfg.frameMax - 2 →
    ∃ t u, execAll [.srsSend p0, .srsSend p1, .srsSend p2, .srsRx (ackFrame 0), .srsRx (ackFrame 2)] s = .next t ∧
      t.srs.oldestUnacked = 1 ∧ memRead t.srs.frames 1 = some (encodeS 1 p1) ∧
      (∀ k, k ≠ 1 → memRead t.srs.frames k = none ∧ timerAt t.srs.timers k = ⟨false, 0⟩) ∧
      execAll (List.replicate s.cfg.tSr .srsTick ++ [.srsTmo 1]) t = .next u ∧
      u.outs = t.outs ++ [Output.tx .srs (encodeS 1 p1)] ∧ u.srs.frames = t.srs.frames ∧
      (∀ k, k ≠ 1 → timerAt u.srs.timers k = timerAt t.srs.timers k)) ∧
  (∀ (s : State) (p0 p1 p2 : Bytes), Working .srr s → s.cfg.valid = true → 3 ≤ s.cfg.srW →
    s.srr.oldestExpected = 0 → s.srr.reorder = [] →
    ∃ t, execAll [.srrRx (encodeS 0 p0), .srrRx (encodeS 2 p2), .srrRx (encodeS 1 p1)] s = .next t ∧
      t.outs = s.outs ++ [Output.tx .srr (ackFrame 0), .deliver .srr (textDec s.cfg.textDec p0),
        .tx .srr (ackFrame 2), .tx .srr (ackFrame 1), .deliver .srr (textDec s.cfg.textDec p1),
        .deliver .srr (textDec s.cfg.textDec p2)])

/-! ## Frames, memory, channel, the whole machine -/

/-- R345, R100 to R104: a frame that has reached a unit takes effect as that unit's `RX`, kind by kind. -/
def Obligations.ArrivingFramesTakeEffect : Prop :=
  (∀ (s : State) (p : Bytes), Working .swnr s → exec (.wireN .swnr p (crcCompute p)) s = .next { s with
    outs := s.outs ++ [.deliver .swnr (textDec s.cfg.textDec p)] }) ∧
  (∀ (s : State) (p : Bytes), Working .abpr s →
    exec (.wireS .abpr (s.abpr.expected.setWidth 8) p (crcCompute (s.abpr.expected.setWidth 8 :: p))) s =
      .next { s with
        abpr := { s.abpr with expected := ~~~ s.abpr.expected },
        outs := s.outs ++ [.deliver .abpr (textDec s.cfg.textDec p),
          .tx .abpr (ackFrame (s.abpr.expected.setWidth 8))],
        wire := s.wire ++ [(.abps, ackFrame (s.abpr.expected.setWidth 8))] }) ∧
  (∀ (s : State) f, Working .swns s → s.swns.state = 0b10#2 → s.swns.txbuf = some f →
    exec .nak0 s = .next { s with
      swns := { s.swns with timer := ⟨true, s.cfg.tSwn⟩ },
      outs := s.outs ++ [.tx .swns f], wire := s.wire ++ [(.swnr, f)] }) ∧
  (∀ s : State, Working .abps s → s.abps.state = 0b10#2 →
    exec (.ack .abps (s.abps.seq.setWidth 8) (crcCompute (s.abps.seq.setWidth 8 :: [0x41, 0x43, 0x4B]))) s =
      .next { s with
        abps := { s.abps with state := 0b01#2, seq := ~~~ s.abps.seq, timer := ⟨false, 0⟩ },
        outs := s.outs ++ [.done .abps .ok] }) ∧
  (∀ (s : State) (q c : Byte) f, Working .pnas s → s.pnas.state = 0b10#2 → s.pnas.txbuf = some f →
    exec (.nak q c) s = .next { s with
      pnas := { s.pnas with timer := ⟨true, s.cfg.tPna⟩ },
      outs := s.outs ++ [.tx .pnas f], wire := s.wire ++ [(.pnar, f)] }) ∧
  (∀ (s : State) (u : ProtUnit) (q c : Byte) (p : Bytes),
    exec (.wireN u p c) s = exec (rxInstr u (p ++ [c])) s ∧
    exec (.wireS u q p c) s = exec (rxInstr u (q :: (p ++ [c]))) s ∧
    exec (.ack u q c) s = exec (rxInstr u [q, 0x41, 0x43, 0x4B, c]) s ∧
    exec .nak0 s = exec (.swnsRx [0x00]) s ∧
    exec (.nak q c) s = exec (.pnasRx [q, 0x4E, 0x41, 0x4B, c]) s)

/-- Every step keeps the memory's canonical form (A11), in which equal contents are equal data. -/
def Obligations.MemoryStaysCanonical : Prop :=
  (∀ s t : State, Memory.wf s = true → step s = .next t → Memory.wf t = true) ∧
  (∀ (m : Nat) (a b : SlotArray), entriesRise m a = true → entriesRise m b = true →
    (∀ k, memRead a k = memRead b k) → a = b)

/-- R28 to R30, R41: what registers and slots hold fits them; kept by every step. -/
def Obligations.SizesKeptByEveryStep : Prop :=
  ∀ s t : State, s.cfg.valid = true → SizesFit s → step s = .next t → SizesFit t

/-- R20, R27, R73: an operation of a unit changes no register outside it, `CRC.reg` among them, nor the configuration,
and its outputs leave on its own ports, in order, every transmitted datagram into the channel. -/
def Obligations.UnitsShareNoState : Prop :=
  ∀ (i : Instr) (u : ProtUnit) (s t : State), instrUnit i = some u → exec i s = .next t →
    AgreeOutside u s t ∧ ∃ new, t.outs = s.outs ++ new ∧ (∀ o ∈ new, outputOf u o) ∧
      t.wire = s.wire ++ datagramsOf new

/-- R360, R362, R345: the channel delivers a datagram in flight once, to the unit it travels to, at any time the unit
takes it, unchanged or with exactly one bit inverted, its length kept; or it loses it. While the unit does not take it the
datagram stays in the channel and the delivery waits, what is offered after it being served (A2, A19). A unit takes
datagrams while it is open and healthy; a stop-and-wait sender only in `WAIT_ACK`, and one with an illegal code takes the
datagram and the fault. -/
def Obligations.ChannelDeliversAtMostOnce : Prop :=
  (∀ (s : State) k flip rest u d, s.agenda = .deliver k flip :: rest → s.wire[k]? = some (u, d) →
    d.length ≤ s.cfg.frameMax → s.rxAccepts u = true →
    step s = exec (rxInstr u (corrupt flip d)) { s with agenda := rest, wire := s.wire.eraseIdx k }) ∧
  (∀ (s : State) k flip u d, s.agenda = [.deliver k flip] → s.wire[k]? = some (u, d) →
    d.length ≤ s.cfg.frameMax → s.rxAccepts u = false → dueTimeout s = none → step s = .next s) ∧
  (∀ (s : State) k flip o rest u d j, s.agenda = .deliver k flip :: .offer o :: rest → s.wire[k]? = some (u, d) →
    d.length ≤ s.cfg.frameMax → s.rxAccepts u = false → decode o = .instr j → WellFormed s.cfg j = true →
    accepts j s = true → step s = exec j { s with agenda := .deliver k flip :: rest }) ∧
  (∀ (s : State) (u : ProtUnit) (d : Bytes), accepts (rxInstr u d) s = s.rxAccepts u) ∧
  (∀ (s : State) (u : ProtUnit), (s.flags u).fault = true ∨ (s.flags u).closed = true → s.rxAccepts u = false) ∧
  (∀ (s : State) (u : ProtUnit), (s.flags u).fault = false → (s.flags u).closed = false → s.wf u = false →
    s.rxAccepts u = true) ∧
  (∀ (s : State) (u : ProtUnit), Working u s →
    (s.rxAccepts u = true ↔ u ∉ [.swns, .abps, .pnas] ∨ s.tag u = some 0b10#2)) ∧
  (∀ (s : State) k rest, s.agenda = .lose k :: rest →
    step s = .next { s with agenda := rest, wire := s.wire.eraseIdx k }) ∧
  (∀ d : Bytes, corrupt none d = d) ∧
  (∀ (n : Nat) (d : Bytes), (corrupt (some n) d).length = d.length ∧
    ∀ k j, j < 8 → (((corrupt (some n) d).getD k 0).getLsbD j =
      if k = n / 8 ∧ j = n % 8 ∧ k < d.length then !(d.getD k 0).getLsbD j else (d.getD k 0).getLsbD j))

/-- R48, R20: no step changes the configuration, and `CRC.reg` is changed by `CRC` operations and reset alone. -/
def Obligations.ConfigurationNeverChanges : Prop :=
  (∀ s t : State, step s = .next t → t.cfg = s.cfg) ∧
  (∀ (i : Instr) (s t : State), exec i s = .next t → t.crc ≠ s.crc →
    i ∈ [.crcClr, .crcAug, .sysReset] ∨ (∃ b, i = .crcShift b) ∨ (∃ v, i = .crcByte v) ∨
      (∃ d, i = .crcCompute d) ∨ (∃ d, i = .crcVerify d))
end

