-- ==== Sys2Proof/Laws/Memory.lean ====
section
/-! SUPPORT. Slot and timer arrays: what a read gives after a write, and that every operation over them keeps the
canonical form (indices strictly rising, below the bound, no idle timer listed). -/

namespace Sys2Proof.Machine

/-! ## Read after write -/

theorem readEntry_insertEntry {α : Type} (a : List (Nat × α)) (i k : Nat) (v : α) :
    readEntry (insertEntry a i v) k = if k = i then some v else readEntry a k := by
  induction a with
  | nil => by_cases h : i = k <;> simp [insertEntry, readEntry, h, eq_comm]
  | cons e rest ih =>
    obtain ⟨j, w⟩ := e
    simp only [insertEntry]
    split
    · by_cases h : i = k
      · simp [readEntry, h]
      · simp [readEntry, h, Ne.symm h]
    · split
      · rename_i h; subst h
        by_cases h' : j = k
        · simp [readEntry, h']
        · simp [readEntry, h', Ne.symm h']
      · rename_i hji
        simp only [readEntry, ih]
        by_cases h' : j = k
        · subst h'; simp [hji]
        · simp [h']

theorem readEntry_eraseEntry {α : Type} (a : List (Nat × α)) (i k : Nat) :
    readEntry (eraseEntry a i) k = if k = i then none else readEntry a k := by
  induction a with
  | nil => simp [eraseEntry, readEntry]
  | cons e rest ih =>
    obtain ⟨j, w⟩ := e
    by_cases hj : j = i
    · subst hj
      by_cases hk : k = j
      · subst hk; simpa [eraseEntry] using ih
      · simp [eraseEntry, readEntry, ih, hk, Ne.symm hk]
    · by_cases hk : j = k
      · subst hk; simp [eraseEntry, readEntry, hj]
      · simp [eraseEntry, readEntry, hj, hk, ih]

/-- A slot reads as what was last written to it; every other slot reads as before (20_memory.md R60). -/
theorem memRead_memWrite (a : SlotArray) (i k : Nat) (v : Option Bytes) :
    memRead (memWrite a i v) k = if k = i then v else memRead a k := by
  cases v with
  | none => simp [memRead, memWrite, readEntry_eraseEntry]
  | some b => simp [memRead, memWrite, readEntry_insertEntry]

theorem memRead_nil (k : Nat) : memRead [] k = none := rfl

theorem timerAt_nil (k : Nat) : timerAt [] k = .idle := rfl

theorem timerAt_setTimerAt (a : TimerArray) (i k : Nat) (t : Timer) :
    timerAt (setTimerAt a i t) k = if k = i then t else timerAt a k := by
  unfold setTimerAt timerAt
  split
  · rename_i h; rw [readEntry_eraseEntry]; split <;> simp [h]
  · rw [readEntry_insertEntry]; split <;> simp

/-- Every timer below the bound counts the tick, every other stays (60_exceptions.md R357). -/
theorem timerAt_tickAll (m : Nat) (a : TimerArray) (k : Nat) :
    timerAt (tickAll m a) k = if k < m then (timerAt a k).tick else timerAt a k := by
  induction a with
  | nil => simp [tickAll, timerAt, readEntry, Timer.tick, Timer.running]
  | cons e rest ih =>
    obtain ⟨j, t⟩ := e
    simp only [timerAt, tickAll, List.map_cons] at ih ⊢
    by_cases hk : j = k
    · subst hk; by_cases hm : j < m <;> simp [readEntry, hm]
    · by_cases hm : j < m <;> simp only [hm, if_true, if_false, readEntry, hk] <;> exact ih

/-! ## The canonical form -/

/-- Every index of the list is above `i`. -/
theorem entriesRise_cons {α : Type} (m k : Nat) (v : α) (rest : List (Nat × α)) :
    entriesRise m ((k, v) :: rest) = true ↔
      k < m ∧ (∀ e ∈ rest, k < e.1) ∧ entriesRise m rest = true := by
  induction rest generalizing k v with
  | nil => simp [entriesRise]
  | cons e rest ih =>
    obtain ⟨j, w⟩ := e
    simp only [entriesRise, Bool.and_eq_true, decide_eq_true_eq, List.mem_cons, forall_eq_or_imp]
    rw [ih]
    constructor
    · rintro ⟨h1, h2, h3, h4⟩
      exact ⟨by omega, ⟨h1, fun e he => by have := h3 e he; omega⟩, h2, h3, h4⟩
    · rintro ⟨_, ⟨h1, _⟩, h2, h3, h4⟩
      exact ⟨h1, h2, h3, h4⟩

theorem mem_insertEntry {α : Type} (a : List (Nat × α)) (i : Nat) (v : α) (e : Nat × α)
    (h : e ∈ insertEntry a i v) : e = (i, v) ∨ e ∈ a := by
  induction a with
  | nil => simpa [insertEntry] using h
  | cons x rest ih =>
    obtain ⟨k, w⟩ := x
    simp only [insertEntry] at h
    split at h
    · simpa using h
    · split at h
      · rcases List.mem_cons.1 h with h | h
        · exact .inl h
        · exact .inr (List.mem_cons_of_mem _ h)
      · rcases List.mem_cons.1 h with h | h
        · exact .inr (h ▸ List.mem_cons_self)
        · rcases ih h with h | h
          · exact .inl h
          · exact .inr (List.mem_cons_of_mem _ h)

theorem mem_eraseEntry {α : Type} (a : List (Nat × α)) (i : Nat) (e : Nat × α)
    (h : e ∈ eraseEntry a i) : e ∈ a := by
  induction a with
  | nil => simp [eraseEntry] at h
  | cons x rest ih =>
    obtain ⟨k, w⟩ := x
    simp only [eraseEntry] at h
    split at h
    · exact List.mem_cons_of_mem _ (ih h)
    · rcases List.mem_cons.1 h with h | h
      · exact h ▸ List.mem_cons_self
      · exact List.mem_cons_of_mem _ (ih h)

theorem entriesRise_insertEntry {α : Type} (m : Nat) (a : List (Nat × α)) (i : Nat) (v : α)
    (h : entriesRise m a = true) (hi : i < m) : entriesRise m (insertEntry a i v) = true := by
  induction a with
  | nil => simp [insertEntry, entriesRise, hi]
  | cons x rest ih =>
    obtain ⟨k, w⟩ := x
    have h' := (entriesRise_cons m k w rest).1 h
    simp only [insertEntry]
    split
    · rename_i hik
      refine (entriesRise_cons _ _ _ _).2 ⟨hi, fun e he => ?_, h⟩
      rcases List.mem_cons.1 he with he | he
      · simpa [he] using hik
      · have := h'.2.1 e he; omega
    · split
      · rename_i hki; subst hki
        exact (entriesRise_cons _ _ _ _).2 h'
      · refine (entriesRise_cons _ _ _ _).2 ⟨h'.1, fun e he => ?_, ih h'.2.2⟩
        rcases mem_insertEntry _ _ _ _ he with he | he
        · subst he; show k < i; omega
        · exact h'.2.1 e he

theorem entriesRise_eraseEntry {α : Type} (m : Nat) (a : List (Nat × α)) (i : Nat)
    (h : entriesRise m a = true) : entriesRise m (eraseEntry a i) = true := by
  induction a with
  | nil => simpa [eraseEntry] using h
  | cons x rest ih =>
    obtain ⟨k, w⟩ := x
    have h' := (entriesRise_cons m k w rest).1 h
    simp only [eraseEntry]
    split
    · exact ih h'.2.2
    · exact (entriesRise_cons _ _ _ _).2 ⟨h'.1, fun e he => h'.2.1 e (mem_eraseEntry _ _ _ he), ih h'.2.2⟩

/-- A slot write to a slot that exists keeps the canonical form. -/
theorem entriesRise_memWrite (m : Nat) (a : SlotArray) (i : Nat) (v : Option Bytes)
    (h : entriesRise m a = true) (hi : i < m) : entriesRise m (memWrite a i v) = true := by
  cases v with
  | none => exact entriesRise_eraseEntry m a i h
  | some b => exact entriesRise_insertEntry m a i b h hi

/-- Emptying any slot keeps the canonical form. -/
theorem entriesRise_memWrite_none (m : Nat) (a : SlotArray) (i : Nat) (h : entriesRise m a = true) :
    entriesRise m (memWrite a i none) = true :=
  entriesRise_eraseEntry m a i h

theorem entriesRise_setTimerAt (m : Nat) (a : TimerArray) (i : Nat) (t : Timer)
    (h : entriesRise m a = true) (hi : i < m) : entriesRise m (setTimerAt a i t) = true := by
  unfold setTimerAt
  split
  · exact entriesRise_eraseEntry m a i h
  · exact entriesRise_insertEntry m a i t h hi

/-- Cancelling any timer keeps the canonical form. -/
theorem entriesRise_setTimerAt_idle (m : Nat) (a : TimerArray) (i : Nat) (h : entriesRise m a = true) :
    entriesRise m (setTimerAt a i .idle) = true := by
  simpa [setTimerAt] using entriesRise_eraseEntry m a i h

/-- No idle timer is listed after a timer is written. -/
theorem notIdle_setTimerAt (a : TimerArray) (i : Nat) (t : Timer)
    (h : a.all (fun e => decide (e.2 ≠ .idle)) = true) :
    (setTimerAt a i t).all (fun e => decide (e.2 ≠ .idle)) = true := by
  simp only [List.all_eq_true] at h ⊢
  intro e he
  unfold setTimerAt at he
  split at he
  · exact h e (mem_eraseEntry _ _ _ he)
  · rename_i ht
    rcases mem_insertEntry _ _ _ _ he with he | he
    · subst he; simpa using ht
    · exact h e he

theorem Timer.tick_eq_idle (t : Timer) : t.tick = .idle ↔ t = .idle := by
  obtain ⟨a, c⟩ := t
  cases a <;> simp [Timer.tick, Timer.running]
  · cases c <;> simp

theorem entriesRise_map {α : Type} (m : Nat) (f : Nat × α → α) (a : List (Nat × α)) (h : entriesRise m a = true) :
    entriesRise m (a.map (fun e => (e.1, f e))) = true := by
  induction a with
  | nil => rfl
  | cons x rest ih =>
    obtain ⟨k, w⟩ := x
    have h' := (entriesRise_cons m k w rest).1 h
    refine (entriesRise_cons _ _ _ _).2 ⟨h'.1, fun e he => ?_, ih h'.2.2⟩
    obtain ⟨x, hx, rfl⟩ := List.mem_map.1 he
    exact h'.2.1 x hx

theorem tickAll_eq_map (m : Nat) (a : TimerArray) :
    tickAll m a = a.map (fun e => (e.1, if e.1 < m then e.2.tick else e.2)) := by
  unfold tickAll
  congr 1
  funext e
  split <;> rfl

/-- A tick keeps the canonical form of the timers. -/
theorem entriesRise_tickAll (m n : Nat) (a : TimerArray) (h : entriesRise m a = true) :
    entriesRise m (tickAll n a) = true := by
  rw [tickAll_eq_map]
  exact entriesRise_map m (fun e => if e.1 < n then e.2.tick else e.2) a h

/-- No idle timer is listed after a tick. -/
theorem notIdle_tickAll (n : Nat) (a : TimerArray) (h : a.all (fun e => decide (e.2 ≠ .idle)) = true) :
    (tickAll n a).all (fun e => decide (e.2 ≠ .idle)) = true := by
  simp only [List.all_eq_true] at h ⊢
  intro e he
  rw [tickAll_eq_map] at he
  obtain ⟨x, hx, rfl⟩ := List.mem_map.1 he
  have := h x hx
  simp only [decide_eq_true_eq] at this ⊢
  split
  · simpa [Timer.tick_eq_idle] using this
  · exact this

/-- The memory right after reset has the canonical form. -/
theorem reset_memory_wf : Memory.wf State.reset = true := by decide

end Sys2Proof.Machine
end

