-- ==== Sys2Proof/Laws/Window.lean ====
section
/-! SUPPORT. Modulo-N arithmetic without division, and the window test as a distance test. -/

namespace Sys2Proof.Machine

/-- A sum of two numbers below `m` is reduced by at most one subtraction. -/
theorem mod_of_lt_two_mul (x m : Nat) (h : x < 2 * m) : x % m = if x < m then x else x - m := by
  split
  · exact Nat.mod_eq_of_lt ‹_›
  · rw [Nat.mod_eq_sub_mod (by omega), Nat.mod_eq_of_lt (by omega)]

theorem seqInc_lt (x m : Nat) (h : 0 < m) : seqInc x m < m := Nat.mod_lt _ h

/-- The window of `w` numbers from `low` on holds the numbers at a distance below `w` (42_window_arith.md R196). -/
theorem inWindow_from (low w m v : Nat) (hl : low < m) (hw : 0 < w) (hwm : w < m) :
    inWindow low (seqAdd low w m) m v = true ↔ v < m ∧ (v + m - low) % m < w := by
  unfold inWindow seqAdd
  rw [mod_of_lt_two_mul (low + w) m (by omega)]
  by_cases hv : v < m
  · rw [mod_of_lt_two_mul (v + m - low) m (by omega)]
    simp only [ge_iff_le, Nat.not_le.2 hv, if_false]
    split <;> split <;> split <;> simp <;> omega
  · simp [hv, Nat.le_of_not_lt hv]

/-- The window of the `w` numbers before `high` holds the numbers at a distance of at least `m - w` after `high`. -/
theorem inWindow_before (high w m v : Nat) (hh : high < m) (hw : 0 < w) (hwm : w < m) :
    inWindow (seqSub high w m) high m v = true ↔ v < m ∧ m - w ≤ (v + m - high) % m := by
  unfold inWindow seqSub
  rw [Nat.mod_eq_of_lt hwm, mod_of_lt_two_mul (high + m - w) m (by omega)]
  by_cases hv : v < m
  · rw [mod_of_lt_two_mul (v + m - high) m (by omega)]
    simp only [ge_iff_le, Nat.not_le.2 hv, if_false]
    split <;> split <;> split <;> simp <;> omega
  · simp [hv, Nat.le_of_not_lt hv]

/-- Adding distances: the number `j` after `base`, and its distance from `base`. -/
theorem dist_add (base j m : Nat) (hb : base < m) (hj : j < m) : ((base + j) % m + m - base) % m = j := by
  rw [mod_of_lt_two_mul (base + j) m (by omega)]
  split <;> rw [mod_of_lt_two_mul _ m (by omega)] <;> split <;> omega

/-- A number is its distance after the base. -/
theorem add_dist (base k m : Nat) (hb : base < m) (hk : k < m) : (base + (k + m - base) % m) % m = k := by
  rw [mod_of_lt_two_mul (k + m - base) m (by omega)]
  split <;> rw [mod_of_lt_two_mul _ m (by omega)] <;> split <;> omega

/-- The next number after the one at distance `j`. -/
theorem seqInc_add (base j m : Nat) : seqInc ((base + j) % m) m = (base + (j + 1)) % m := by
  simp [seqInc, Nat.add_assoc]

end Sys2Proof.Machine
end

