-- ==== Sys2Proof/Laws/Loops.lean ====
section
/-! SUPPORT. What the four loops do, once over: clearing through a number, collecting the frames in flight, sliding the
base, draining the reorder buffer; and that they keep the canonical form. -/

namespace Sys2Proof.Machine

/-! ## The clearing loop of 44_go_back_n.md R263 -/

theorem memRead_clearThrough_of_turns (m base n : Nat) (hb : base < m) :
    ∀ (fuel j : Nat) (a : SlotArray) (k : Nat), j ≤ n → n < m → n - j < fuel →
      memRead (clearThrough m ((base + n) % m) fuel ((base + j) % m) a) k =
        if k < m ∧ j ≤ (k + m - base) % m ∧ (k + m - base) % m ≤ n then none else memRead a k := by
  intro fuel
  induction fuel with
  | zero => intro j a k _ _ h; omega
  | succ fuel ih =>
    intro j a k hj hn hf
    have key : k = (base + j) % m ↔ k < m ∧ (k + m - base) % m = j := by
      constructor
      · rintro rfl
        exact ⟨Nat.mod_lt _ (by omega), dist_add base j m hb (by omega)⟩
      · rintro ⟨hk, rfl⟩
        exact (add_dist base k m hb hk).symm
    simp only [clearThrough]
    split
    · rename_i heq
      have hjn : j = n := by
        have := congrArg (fun x => (x + m - base) % m) heq
        simpa only [dist_add base j m hb (by omega), dist_add base n m hb hn] using this
      subst hjn
      rw [memRead_memWrite]
      by_cases h : k = (base + j) % m
      · rw [if_pos h, if_pos ⟨(key.1 h).1, by have := (key.1 h).2; omega⟩]
      · rw [if_neg h, if_neg]
        rintro ⟨h1, h2, h3⟩
        exact h (key.2 ⟨h1, by omega⟩)
    · rename_i hne
      have hjn : j ≠ n := by rintro rfl; exact hne rfl
      rw [seqInc_add, ih (j + 1) _ k (by omega) hn (by omega), memRead_memWrite]
      by_cases h : k = (base + j) % m
      · have hk := key.1 h
        rw [if_neg (by omega), if_pos h, if_pos ⟨hk.1, by omega⟩]
      · by_cases h' : k < m ∧ j ≤ (k + m - base) % m ∧ (k + m - base) % m ≤ n
        · rw [if_pos h', if_pos]
          refine ⟨h'.1, ?_, h'.2.2⟩
          have : (k + m - base) % m ≠ j := fun hj' => h (key.2 ⟨h'.1, hj'⟩)
          omega
        · rw [if_neg h', if_neg (by omega), if_neg h]

/-- The loop empties the slots from the base through `q` and leaves every other. -/
theorem memRead_clearThrough (m base q : Nat) (a : SlotArray) (k : Nat) (hb : base < m) (hq : q < m) :
    memRead (clearThrough m q m base a) k =
      if k < m ∧ (k + m - base) % m ≤ (q + m - base) % m then none else memRead a k := by
  have h := memRead_clearThrough_of_turns m base ((q + m - base) % m) hb m 0 a k (by omega)
    (Nat.mod_lt _ (by omega)) (by have := Nat.mod_lt (q + m - base) (show m > 0 by omega); omega)
  rw [add_dist base q m hb hq, Nat.add_zero, Nat.mod_eq_of_lt hb] at h
  simpa using h

theorem entriesRise_clearThrough (b m q : Nat) :
    ∀ (fuel i : Nat) (a : SlotArray), entriesRise b a = true → entriesRise b (clearThrough m q fuel i a) = true := by
  intro fuel
  induction fuel with
  | zero => intro i a h; exact h
  | succ fuel ih =>
    intro i a h
    simp only [clearThrough]
    split
    · exact entriesRise_memWrite_none b a i h
    · exact ih _ _ (entriesRise_memWrite_none b a i h)

/-! ## The frames in flight, 44_go_back_n.md R264 -/

theorem framesFrom_of_turns (m base n : Nat) (a : SlotArray) (hb : base < m) (hn : n < m) :
    ∀ (fuel j : Nat), j ≤ n → n - j ≤ fuel →
      framesFrom m ((base + n) % m) a fuel ((base + j) % m) =
        (List.range' j (n - j)).filterMap (fun x => memRead a ((base + x) % m)) := by
  intro fuel
  induction fuel with
  | zero =>
    intro j hj hf
    rw [show n - j = 0 by omega]; rfl
  | succ fuel ih =>
    intro j hj hf
    simp only [framesFrom]
    split
    · rename_i heq
      have hjn : j = n := by
        have := congrArg (fun x => (x + m - base) % m) heq
        simpa only [dist_add base j m hb (by omega), dist_add base n m hb hn] using this
      rw [show n - j = 0 by omega]; rfl
    · rename_i hne
      have hjn : j ≠ n := by rintro rfl; exact hne rfl
      rw [seqInc_add, ih (j + 1) (by omega) (by omega), show n - j = (n - (j + 1)) + 1 by omega, List.range'_succ,
        List.filterMap_cons]
      cases memRead a ((base + j) % m) <;> simp

/-- The loop gives the frames held from the base up to, not including, `next`, in that order. -/
theorem framesFrom_eq (m base next : Nat) (a : SlotArray) (hb : base < m) (hn : next < m) :
    framesFrom m next a m base =
      (List.range ((next + m - base) % m)).filterMap (fun j => memRead a ((base + j) % m)) := by
  have hlt : (next + m - base) % m < m := Nat.mod_lt _ (by omega)
  have h := framesFrom_of_turns m base ((next + m - base) % m) a hb hlt m 0 (by omega) (by omega)
  rw [add_dist base next m hb hn, Nat.add_zero, Nat.mod_eq_of_lt hb] at h
  rw [h, List.range_eq_range']; rfl

/-! ## The sliding loop, 45_selective_repeat.md R293 -/

theorem slideBase_of_turns (m base n : Nat) (a : SlotArray) (hb : base < m) (hn : n < m) :
    ∀ (fuel j : Nat), j ≤ n → n - j ≤ fuel →
      ∃ k, j ≤ k ∧ k ≤ n ∧ slideBase m ((base + n) % m) a fuel ((base + j) % m) = (base + k) % m ∧
        (∀ x, j ≤ x → x < k → memRead a ((base + x) % m) = none) ∧
        (k = n ∨ (memRead a ((base + k) % m)).isSome = true) := by
  intro fuel
  induction fuel with
  | zero => intro j hj hf; exact ⟨j, by omega, hj, rfl, by omega, by omega⟩
  | succ fuel ih =>
    intro j hj hf
    simp only [slideBase]
    split
    · rename_i h
      have hjn : j ≠ n := by rintro rfl; exact h.1 rfl
      obtain ⟨k, h1, h2, h3, h4, h5⟩ := ih (j + 1) (by omega) (by omega)
      refine ⟨k, by omega, h2, by rw [seqInc_add]; exact h3, fun x hx1 hx2 => ?_, h5⟩
      rcases Nat.eq_or_lt_of_le hx1 with hx | hx
      · subst hx; simpa using h.2
      · exact h4 x hx hx2
    · rename_i h
      refine ⟨j, by omega, hj, rfl, by omega, ?_⟩
      by_cases hs : (memRead a ((base + j) % m)).isSome = true
      · exact .inr hs
      · refine .inl ?_
        have : ¬ ((base + j) % m ≠ (base + n) % m) := fun hne => h ⟨hne, by simpa using hs⟩
        have := congrArg (fun x => (x + m - base) % m) (not_not.1 this)
        simpa only [dist_add base j m hb (by omega), dist_add base n m hb hn] using this

/-- The loop moves the base past empty slots, at most up to `next`, and stops there or at a slot that is not empty. -/
theorem slideBase_spec (m base next : Nat) (a : SlotArray) (hb : base < m) (hn : next < m) :
    ∃ k, k ≤ (next + m - base) % m ∧ slideBase m next a m base = (base + k) % m ∧
      (∀ j, j < k → memRead a ((base + j) % m) = none) ∧
      (k = (next + m - base) % m ∨ (memRead a ((base + k) % m)).isSome = true) := by
  have hlt : (next + m - base) % m < m := Nat.mod_lt _ (by omega)
  obtain ⟨k, _, h2, h3, h4, h5⟩ :=
    slideBase_of_turns m base ((next + m - base) % m) a hb hlt m 0 (by omega) (by omega)
  rw [add_dist base next m hb hn, Nat.add_zero, Nat.mod_eq_of_lt hb] at h3
  exact ⟨k, h2, h3, fun j hj => h4 j (by omega) hj, h5⟩

/-! ## The drain, 45_selective_repeat.md R295 -/

theorem drain_of_turns (m base : Nat) (hb : base < m) :
    ∀ (fuel j : Nat) (b : SlotArray), j + fuel < m →
      ∃ n, n ≤ fuel ∧ (drain m fuel b ((base + j) % m)).oldestExpected = (base + (j + n)) % m ∧
        (drain m fuel b ((base + j) % m)).delivered.length = n ∧
        (∀ x, x < n → (drain m fuel b ((base + j) % m)).delivered[x]? = memRead b ((base + (j + x)) % m) ∧
          (memRead b ((base + (j + x)) % m)).isSome = true) ∧
        (∀ k, memRead (drain m fuel b ((base + j) % m)).reorder k =
          if k < m ∧ j ≤ (k + m - base) % m ∧ (k + m - base) % m < j + n then none else memRead b k) ∧
        (n = fuel ∨ memRead b ((base + (j + n)) % m) = none) := by
  intro fuel
  induction fuel with
  | zero => intro j b h; exact ⟨0, by omega, rfl, rfl, by omega, fun k => by rw [if_neg (by omega)]; rfl, by omega⟩
  | succ fuel ih =>
    intro j b h
    simp only [drain]
    cases hr : memRead b ((base + j) % m) with
    | none =>
      exact ⟨0, by omega, rfl, rfl, by omega, fun k => by rw [if_neg (by omega)], .inr hr⟩
    | some p =>
      have key : ∀ k, k = (base + j) % m ↔ k < m ∧ (k + m - base) % m = j := by
        intro k
        constructor
        · rintro rfl
          exact ⟨Nat.mod_lt _ (by omega), dist_add base j m hb (by omega)⟩
        · rintro ⟨hk, rfl⟩
          exact (add_dist base k m hb hk).symm
      have far : ∀ x, 0 < x → j + x < m → ¬ (base + (j + x)) % m = (base + j) % m := by
        intro x hx hxm heq
        have := congrArg (fun y => (y + m - base) % m) heq
        simp only [dist_add base (j + x) m hb hxm, dist_add base j m hb (by omega)] at this
        omega
      obtain ⟨n, h1, h2, h3, h4, h5, h6⟩ := ih (j + 1) (memWrite b ((base + j) % m) none) (by omega)
      rw [← seqInc_add] at h2 h3 h4 h5
      refine ⟨n + 1, by omega, ?_, ?_, fun x hx => ?_, fun k => ?_, ?_⟩
      · simp only; rw [h2]; congr 2; omega
      · simp [h3]
      · cases x with
        | zero => simp [hr]
        | succ x =>
          have := h4 x (by omega)
          rw [show j + 1 + x = j + (x + 1) by omega, memRead_memWrite, if_neg (far (x + 1) (by omega) (by omega))] at this
          simpa using this
      · simp only
        rw [h5 k, memRead_memWrite]
        have hk := key k
        by_cases hkj : k = (base + j) % m
        · have := hk.1 hkj
          rw [if_neg (by omega), if_pos hkj, if_pos (by omega)]
        · rw [if_neg hkj]
          have hne : ¬ (k < m ∧ (k + m - base) % m = j) := fun hc => hkj (hk.2 hc)
          by_cases hc : k < m ∧ j ≤ (k + m - base) % m ∧ (k + m - base) % m < j + (n + 1)
          · rw [if_pos hc, if_pos]
            refine ⟨hc.1, ?_, by omega⟩
            have : (k + m - base) % m ≠ j := fun hj => hne ⟨hc.1, hj⟩
            omega
          · rw [if_neg hc, if_neg (by omega)]
      · rcases h6 with h6 | h6
        · exact .inl (by omega)
        · by_cases hf : n = fuel
          · exact .inl (by omega)
          · rw [show j + 1 + n = j + (n + 1) by omega, memRead_memWrite, if_neg (far (n + 1) (by omega) (by omega))] at h6
            exact .inr (by simpa using h6)

/-- The drain delivers the payloads buffered from the base on without a gap, at most `w`, empties their slots, leaves
every other, and moves the base past them. -/
theorem drain_spec (m base w : Nat) (b : SlotArray) (hb : base < m) (hw : w < m) :
    ∃ n, n ≤ w ∧ (drain m w b base).oldestExpected = (base + n) % m ∧ (drain m w b base).delivered.length = n ∧
      (∀ x, x < n → (drain m w b base).delivered[x]? = memRead b ((base + x) % m) ∧
        (memRead b ((base + x) % m)).isSome = true) ∧
      (∀ k, memRead (drain m w b base).reorder k =
        if k < m ∧ (k + m - base) % m < n then none else memRead b k) ∧
      (n = w ∨ memRead b ((base + n) % m) = none) := by
  have h := drain_of_turns m base hb w 0 b (by omega)
  simpa [Nat.mod_eq_of_lt hb] using h

theorem entriesRise_drain (b m : Nat) :
    ∀ (fuel i : Nat) (a : SlotArray), entriesRise b a = true → entriesRise b (drain m fuel a i).reorder = true := by
  intro fuel
  induction fuel with
  | zero => intro i a h; exact h
  | succ fuel ih =>
    intro i a h
    simp only [drain]
    cases memRead a i with
    | none => exact h
    | some p => exact ih _ _ (entriesRise_memWrite_none b a i h)

/-! ## Emitting a list -/

/-- Transmitting frames in order puts each out and into the channel. -/
theorem txAll_eq (u : ProtUnit) (fs : List Bytes) (s : State) :
    s.txAll u fs = { s with
      outs := s.outs ++ fs.map (Output.tx u), wire := s.wire ++ fs.map (fun f => (u.peer, f)) } := by
  induction fs generalizing s with
  | nil => simp [State.txAll]
  | cons f rest ih =>
    show (s.tx u f).txAll u rest = _
    rw [ih]
    simp [State.tx, State.emit]

/-- Delivering payloads in order puts each out. -/
theorem deliverAll_eq (u : ProtUnit) (ps : List Bytes) (s : State) :
    s.deliverAll u ps = { s with outs := s.outs ++ ps.map (Output.deliver u) } := by
  induction ps generalizing s with
  | nil => simp [State.deliverAll]
  | cons p rest ih =>
    show (s.emit (.deliver u p)).deliverAll u rest = _
    rw [ih]
    simp [State.emit]

end Sys2Proof.Machine
end

