-- ==== Sys2Proof/Laws/State.lean ====
section
/-! SUPPORT. What each named update of the state changes and leaves: one lemma per field per update, true by
unfolding, so that no later proof unfolds an update. -/

namespace Sys2Proof.Machine

variable (s : State)

/-! ## Writing the status registers of a unit -/

@[simp] theorem setFlags_crc (u : ProtUnit) (f : Flags) : (s.setFlags u f).crc = s.crc := by cases u <;> rfl
@[simp] theorem setFlags_wire (u : ProtUnit) (f : Flags) : (s.setFlags u f).wire = s.wire := by cases u <;> rfl
@[simp] theorem setFlags_cfg (u : ProtUnit) (f : Flags) : (s.setFlags u f).cfg = s.cfg := by cases u <;> rfl
@[simp] theorem setFlags_agenda (u : ProtUnit) (f : Flags) : (s.setFlags u f).agenda = s.agenda := by cases u <;> rfl
@[simp] theorem setFlags_outs (u : ProtUnit) (f : Flags) : (s.setFlags u f).outs = s.outs := by cases u <;> rfl
@[simp] theorem setFlags_draws (u : ProtUnit) (f : Flags) : (s.setFlags u f).draws = s.draws := by cases u <;> rfl

@[simp] theorem setFlags_flags_self (u : ProtUnit) (f : Flags) : (s.setFlags u f).flags u = f := by cases u <;> rfl
theorem setFlags_flags_of_ne (u v : ProtUnit) (f : Flags) (h : v ≠ u) : (s.setFlags u f).flags v = s.flags v := by
  cases u <;> cases v <;> first | rfl | exact absurd rfl h
@[simp] theorem setFlags_tag (u v : ProtUnit) (f : Flags) : (s.setFlags u f).tag v = s.tag v := by cases u <;> cases v <;> rfl
@[simp] theorem setFlags_wf (u v : ProtUnit) (f : Flags) : (s.setFlags u f).wf v = s.wf v := by cases u <;> cases v <;> rfl
@[simp] theorem setFlags_swns_self (f : Flags) : (s.setFlags .swns f).swns = { s.swns with flags := f } := rfl
@[simp] theorem setFlags_swnr_self (f : Flags) : (s.setFlags .swnr f).swnr = { s.swnr with flags := f } := rfl
@[simp] theorem setFlags_abps_self (f : Flags) : (s.setFlags .abps f).abps = { s.abps with flags := f } := rfl
@[simp] theorem setFlags_abpr_self (f : Flags) : (s.setFlags .abpr f).abpr = { s.abpr with flags := f } := rfl
@[simp] theorem setFlags_pnas_self (f : Flags) : (s.setFlags .pnas f).pnas = { s.pnas with flags := f } := rfl
@[simp] theorem setFlags_pnar_self (f : Flags) : (s.setFlags .pnar f).pnar = { s.pnar with flags := f } := rfl
@[simp] theorem setFlags_gbns_self (f : Flags) : (s.setFlags .gbns f).gbns = { s.gbns with flags := f } := rfl
@[simp] theorem setFlags_gbnr_self (f : Flags) : (s.setFlags .gbnr f).gbnr = { s.gbnr with flags := f } := rfl
@[simp] theorem setFlags_srs_self (f : Flags) : (s.setFlags .srs f).srs = { s.srs with flags := f } := rfl
@[simp] theorem setFlags_srr_self (f : Flags) : (s.setFlags .srr f).srr = { s.srr with flags := f } := rfl
theorem setFlags_swns_of_ne (u : ProtUnit) (f : Flags) (h : u ≠ .swns) : (s.setFlags u f).swns = s.swns := by
  cases u <;> first | rfl | exact absurd rfl h
theorem setFlags_swnr_of_ne (u : ProtUnit) (f : Flags) (h : u ≠ .swnr) : (s.setFlags u f).swnr = s.swnr := by
  cases u <;> first | rfl | exact absurd rfl h
theorem setFlags_abps_of_ne (u : ProtUnit) (f : Flags) (h : u ≠ .abps) : (s.setFlags u f).abps = s.abps := by
  cases u <;> first | rfl | exact absurd rfl h
theorem setFlags_abpr_of_ne (u : ProtUnit) (f : Flags) (h : u ≠ .abpr) : (s.setFlags u f).abpr = s.abpr := by
  cases u <;> first | rfl | exact absurd rfl h
theorem setFlags_pnas_of_ne (u : ProtUnit) (f : Flags) (h : u ≠ .pnas) : (s.setFlags u f).pnas = s.pnas := by
  cases u <;> first | rfl | exact absurd rfl h
theorem setFlags_pnar_of_ne (u : ProtUnit) (f : Flags) (h : u ≠ .pnar) : (s.setFlags u f).pnar = s.pnar := by
  cases u <;> first | rfl | exact absurd rfl h
theorem setFlags_gbns_of_ne (u : ProtUnit) (f : Flags) (h : u ≠ .gbns) : (s.setFlags u f).gbns = s.gbns := by
  cases u <;> first | rfl | exact absurd rfl h
theorem setFlags_gbnr_of_ne (u : ProtUnit) (f : Flags) (h : u ≠ .gbnr) : (s.setFlags u f).gbnr = s.gbnr := by
  cases u <;> first | rfl | exact absurd rfl h
theorem setFlags_srs_of_ne (u : ProtUnit) (f : Flags) (h : u ≠ .srs) : (s.setFlags u f).srs = s.srs := by
  cases u <;> first | rfl | exact absurd rfl h
theorem setFlags_srr_of_ne (u : ProtUnit) (f : Flags) (h : u ≠ .srr) : (s.setFlags u f).srr = s.srr := by
  cases u <;> first | rfl | exact absurd rfl h

/-! ## Cancelling the timers of a unit -/

@[simp] theorem cancelTimers_crc (u : ProtUnit) : (s.cancelTimers u).crc = s.crc := by cases u <;> rfl
@[simp] theorem cancelTimers_swnr (u : ProtUnit) : (s.cancelTimers u).swnr = s.swnr := by cases u <;> rfl
@[simp] theorem cancelTimers_abpr (u : ProtUnit) : (s.cancelTimers u).abpr = s.abpr := by cases u <;> rfl
@[simp] theorem cancelTimers_pnar (u : ProtUnit) : (s.cancelTimers u).pnar = s.pnar := by cases u <;> rfl
@[simp] theorem cancelTimers_gbnr (u : ProtUnit) : (s.cancelTimers u).gbnr = s.gbnr := by cases u <;> rfl
@[simp] theorem cancelTimers_srr (u : ProtUnit) : (s.cancelTimers u).srr = s.srr := by cases u <;> rfl
@[simp] theorem cancelTimers_wire (u : ProtUnit) : (s.cancelTimers u).wire = s.wire := by cases u <;> rfl
@[simp] theorem cancelTimers_cfg (u : ProtUnit) : (s.cancelTimers u).cfg = s.cfg := by cases u <;> rfl
@[simp] theorem cancelTimers_agenda (u : ProtUnit) : (s.cancelTimers u).agenda = s.agenda := by cases u <;> rfl
@[simp] theorem cancelTimers_outs (u : ProtUnit) : (s.cancelTimers u).outs = s.outs := by cases u <;> rfl
@[simp] theorem cancelTimers_draws (u : ProtUnit) : (s.cancelTimers u).draws = s.draws := by cases u <;> rfl
@[simp] theorem cancelTimers_flags (u v : ProtUnit) : (s.cancelTimers u).flags v = s.flags v := by cases u <;> cases v <;> rfl
@[simp] theorem cancelTimers_tag (u v : ProtUnit) : (s.cancelTimers u).tag v = s.tag v := by cases u <;> cases v <;> rfl
@[simp] theorem cancelTimers_wf (u v : ProtUnit) : (s.cancelTimers u).wf v = s.wf v := by cases u <;> cases v <;> rfl
@[simp] theorem cancelTimers_swns_self : (s.cancelTimers .swns).swns = { s.swns with timer := .idle } := rfl
@[simp] theorem cancelTimers_abps_self : (s.cancelTimers .abps).abps = { s.abps with timer := .idle } := rfl
@[simp] theorem cancelTimers_pnas_self : (s.cancelTimers .pnas).pnas = { s.pnas with timer := .idle } := rfl
@[simp] theorem cancelTimers_gbns_self : (s.cancelTimers .gbns).gbns = { s.gbns with timer := .idle } := rfl
@[simp] theorem cancelTimers_srs_self : (s.cancelTimers .srs).srs = { s.srs with timers := [] } := rfl
theorem cancelTimers_swns_of_ne (u : ProtUnit) (h : u ≠ .swns) : (s.cancelTimers u).swns = s.swns := by
  cases u <;> first | rfl | exact absurd rfl h
theorem cancelTimers_abps_of_ne (u : ProtUnit) (h : u ≠ .abps) : (s.cancelTimers u).abps = s.abps := by
  cases u <;> first | rfl | exact absurd rfl h
theorem cancelTimers_pnas_of_ne (u : ProtUnit) (h : u ≠ .pnas) : (s.cancelTimers u).pnas = s.pnas := by
  cases u <;> first | rfl | exact absurd rfl h
theorem cancelTimers_gbns_of_ne (u : ProtUnit) (h : u ≠ .gbns) : (s.cancelTimers u).gbns = s.gbns := by
  cases u <;> first | rfl | exact absurd rfl h
theorem cancelTimers_srs_of_ne (u : ProtUnit) (h : u ≠ .srs) : (s.cancelTimers u).srs = s.srs := by
  cases u <;> first | rfl | exact absurd rfl h

/-! ## Outputs -/

@[simp] theorem emit_crc (o : Output) : (s.emit o).crc = s.crc := rfl
@[simp] theorem emit_swns (o : Output) : (s.emit o).swns = s.swns := rfl
@[simp] theorem emit_swnr (o : Output) : (s.emit o).swnr = s.swnr := rfl
@[simp] theorem emit_abps (o : Output) : (s.emit o).abps = s.abps := rfl
@[simp] theorem emit_abpr (o : Output) : (s.emit o).abpr = s.abpr := rfl
@[simp] theorem emit_pnas (o : Output) : (s.emit o).pnas = s.pnas := rfl
@[simp] theorem emit_pnar (o : Output) : (s.emit o).pnar = s.pnar := rfl
@[simp] theorem emit_gbns (o : Output) : (s.emit o).gbns = s.gbns := rfl
@[simp] theorem emit_gbnr (o : Output) : (s.emit o).gbnr = s.gbnr := rfl
@[simp] theorem emit_srs (o : Output) : (s.emit o).srs = s.srs := rfl
@[simp] theorem emit_srr (o : Output) : (s.emit o).srr = s.srr := rfl
@[simp] theorem emit_cfg (o : Output) : (s.emit o).cfg = s.cfg := rfl
@[simp] theorem emit_agenda (o : Output) : (s.emit o).agenda = s.agenda := rfl
@[simp] theorem emit_draws (o : Output) : (s.emit o).draws = s.draws := rfl
@[simp] theorem emit_wire (o : Output) : (s.emit o).wire = s.wire := rfl
@[simp] theorem emit_flags (o : Output) (w : ProtUnit) : (s.emit o).flags w = s.flags w := by cases w <;> rfl
@[simp] theorem emit_tag (o : Output) (w : ProtUnit) : (s.emit o).tag w = s.tag w := by cases w <;> rfl
@[simp] theorem emit_wf (o : Output) (w : ProtUnit) : (s.emit o).wf w = s.wf w := by cases w <;> rfl
@[simp] theorem emit_outs (o : Output) : (s.emit o).outs = s.outs ++ [o] := rfl
@[simp] theorem ret_crc (v : RetVal) : (s.ret v).crc = s.crc := rfl
@[simp] theorem ret_swns (v : RetVal) : (s.ret v).swns = s.swns := rfl
@[simp] theorem ret_swnr (v : RetVal) : (s.ret v).swnr = s.swnr := rfl
@[simp] theorem ret_abps (v : RetVal) : (s.ret v).abps = s.abps := rfl
@[simp] theorem ret_abpr (v : RetVal) : (s.ret v).abpr = s.abpr := rfl
@[simp] theorem ret_pnas (v : RetVal) : (s.ret v).pnas = s.pnas := rfl
@[simp] theorem ret_pnar (v : RetVal) : (s.ret v).pnar = s.pnar := rfl
@[simp] theorem ret_gbns (v : RetVal) : (s.ret v).gbns = s.gbns := rfl
@[simp] theorem ret_gbnr (v : RetVal) : (s.ret v).gbnr = s.gbnr := rfl
@[simp] theorem ret_srs (v : RetVal) : (s.ret v).srs = s.srs := rfl
@[simp] theorem ret_srr (v : RetVal) : (s.ret v).srr = s.srr := rfl
@[simp] theorem ret_cfg (v : RetVal) : (s.ret v).cfg = s.cfg := rfl
@[simp] theorem ret_agenda (v : RetVal) : (s.ret v).agenda = s.agenda := rfl
@[simp] theorem ret_draws (v : RetVal) : (s.ret v).draws = s.draws := rfl
@[simp] theorem ret_wire (v : RetVal) : (s.ret v).wire = s.wire := rfl
@[simp] theorem ret_flags (v : RetVal) (w : ProtUnit) : (s.ret v).flags w = s.flags w := by cases w <;> rfl
@[simp] theorem ret_tag (v : RetVal) (w : ProtUnit) : (s.ret v).tag w = s.tag w := by cases w <;> rfl
@[simp] theorem ret_wf (v : RetVal) (w : ProtUnit) : (s.ret v).wf w = s.wf w := by cases w <;> rfl
@[simp] theorem ret_outs (v : RetVal) : (s.ret v).outs = s.outs ++ [.ret v] := rfl
@[simp] theorem answer_crc (x : Status) : (s.answer x).crc = s.crc := rfl
@[simp] theorem answer_swns (x : Status) : (s.answer x).swns = s.swns := rfl
@[simp] theorem answer_swnr (x : Status) : (s.answer x).swnr = s.swnr := rfl
@[simp] theorem answer_abps (x : Status) : (s.answer x).abps = s.abps := rfl
@[simp] theorem answer_abpr (x : Status) : (s.answer x).abpr = s.abpr := rfl
@[simp] theorem answer_pnas (x : Status) : (s.answer x).pnas = s.pnas := rfl
@[simp] theorem answer_pnar (x : Status) : (s.answer x).pnar = s.pnar := rfl
@[simp] theorem answer_gbns (x : Status) : (s.answer x).gbns = s.gbns := rfl
@[simp] theorem answer_gbnr (x : Status) : (s.answer x).gbnr = s.gbnr := rfl
@[simp] theorem answer_srs (x : Status) : (s.answer x).srs = s.srs := rfl
@[simp] theorem answer_srr (x : Status) : (s.answer x).srr = s.srr := rfl
@[simp] theorem answer_cfg (x : Status) : (s.answer x).cfg = s.cfg := rfl
@[simp] theorem answer_agenda (x : Status) : (s.answer x).agenda = s.agenda := rfl
@[simp] theorem answer_draws (x : Status) : (s.answer x).draws = s.draws := rfl
@[simp] theorem answer_wire (x : Status) : (s.answer x).wire = s.wire := rfl
@[simp] theorem answer_flags (x : Status) (w : ProtUnit) : (s.answer x).flags w = s.flags w := by cases w <;> rfl
@[simp] theorem answer_tag (x : Status) (w : ProtUnit) : (s.answer x).tag w = s.tag w := by cases w <;> rfl
@[simp] theorem answer_wf (x : Status) (w : ProtUnit) : (s.answer x).wf w = s.wf w := by cases w <;> rfl
@[simp] theorem answer_outs (x : Status) : (s.answer x).outs = s.outs ++ [.ret (.status x)] := rfl
@[simp] theorem tx_crc (u : ProtUnit) (d : Bytes) : (s.tx u d).crc = s.crc := rfl
@[simp] theorem tx_swns (u : ProtUnit) (d : Bytes) : (s.tx u d).swns = s.swns := rfl
@[simp] theorem tx_swnr (u : ProtUnit) (d : Bytes) : (s.tx u d).swnr = s.swnr := rfl
@[simp] theorem tx_abps (u : ProtUnit) (d : Bytes) : (s.tx u d).abps = s.abps := rfl
@[simp] theorem tx_abpr (u : ProtUnit) (d : Bytes) : (s.tx u d).abpr = s.abpr := rfl
@[simp] theorem tx_pnas (u : ProtUnit) (d : Bytes) : (s.tx u d).pnas = s.pnas := rfl
@[simp] theorem tx_pnar (u : ProtUnit) (d : Bytes) : (s.tx u d).pnar = s.pnar := rfl
@[simp] theorem tx_gbns (u : ProtUnit) (d : Bytes) : (s.tx u d).gbns = s.gbns := rfl
@[simp] theorem tx_gbnr (u : ProtUnit) (d : Bytes) : (s.tx u d).gbnr = s.gbnr := rfl
@[simp] theorem tx_srs (u : ProtUnit) (d : Bytes) : (s.tx u d).srs = s.srs := rfl
@[simp] theorem tx_srr (u : ProtUnit) (d : Bytes) : (s.tx u d).srr = s.srr := rfl
@[simp] theorem tx_cfg (u : ProtUnit) (d : Bytes) : (s.tx u d).cfg = s.cfg := rfl
@[simp] theorem tx_agenda (u : ProtUnit) (d : Bytes) : (s.tx u d).agenda = s.agenda := rfl
@[simp] theorem tx_draws (u : ProtUnit) (d : Bytes) : (s.tx u d).draws = s.draws := rfl
@[simp] theorem tx_flags (u : ProtUnit) (d : Bytes) (w : ProtUnit) : (s.tx u d).flags w = s.flags w := by cases w <;> rfl
@[simp] theorem tx_tag (u : ProtUnit) (d : Bytes) (w : ProtUnit) : (s.tx u d).tag w = s.tag w := by cases w <;> rfl
@[simp] theorem tx_wf (u : ProtUnit) (d : Bytes) (w : ProtUnit) : (s.tx u d).wf w = s.wf w := by cases w <;> rfl
@[simp] theorem tx_outs (u : ProtUnit) (d : Bytes) : (s.tx u d).outs = s.outs ++ [.tx u d] := rfl
@[simp] theorem tx_wire (u : ProtUnit) (d : Bytes) : (s.tx u d).wire = s.wire ++ [(u.peer, d)] := rfl

/-! ## Transmitting a register or a slot that may be empty -/

@[simp] theorem txSlot_crc (u : ProtUnit) (b : Option Bytes) : (s.txSlot u b).crc = s.crc := by cases b <;> rfl
@[simp] theorem txSlot_swns (u : ProtUnit) (b : Option Bytes) : (s.txSlot u b).swns = s.swns := by cases b <;> rfl
@[simp] theorem txSlot_swnr (u : ProtUnit) (b : Option Bytes) : (s.txSlot u b).swnr = s.swnr := by cases b <;> rfl
@[simp] theorem txSlot_abps (u : ProtUnit) (b : Option Bytes) : (s.txSlot u b).abps = s.abps := by cases b <;> rfl
@[simp] theorem txSlot_abpr (u : ProtUnit) (b : Option Bytes) : (s.txSlot u b).abpr = s.abpr := by cases b <;> rfl
@[simp] theorem txSlot_pnas (u : ProtUnit) (b : Option Bytes) : (s.txSlot u b).pnas = s.pnas := by cases b <;> rfl
@[simp] theorem txSlot_pnar (u : ProtUnit) (b : Option Bytes) : (s.txSlot u b).pnar = s.pnar := by cases b <;> rfl
@[simp] theorem txSlot_gbns (u : ProtUnit) (b : Option Bytes) : (s.txSlot u b).gbns = s.gbns := by cases b <;> rfl
@[simp] theorem txSlot_gbnr (u : ProtUnit) (b : Option Bytes) : (s.txSlot u b).gbnr = s.gbnr := by cases b <;> rfl
@[simp] theorem txSlot_srs (u : ProtUnit) (b : Option Bytes) : (s.txSlot u b).srs = s.srs := by cases b <;> rfl
@[simp] theorem txSlot_srr (u : ProtUnit) (b : Option Bytes) : (s.txSlot u b).srr = s.srr := by cases b <;> rfl
@[simp] theorem txSlot_cfg (u : ProtUnit) (b : Option Bytes) : (s.txSlot u b).cfg = s.cfg := by cases b <;> rfl
@[simp] theorem txSlot_agenda (u : ProtUnit) (b : Option Bytes) : (s.txSlot u b).agenda = s.agenda := by cases b <;> rfl
@[simp] theorem txSlot_draws (u : ProtUnit) (b : Option Bytes) : (s.txSlot u b).draws = s.draws := by cases b <;> rfl
@[simp] theorem txSlot_flags (u : ProtUnit) (b : Option Bytes) (w : ProtUnit) : (s.txSlot u b).flags w = s.flags w := by
  cases b <;> cases w <;> rfl
@[simp] theorem txSlot_tag (u : ProtUnit) (b : Option Bytes) (w : ProtUnit) : (s.txSlot u b).tag w = s.tag w := by
  cases b <;> cases w <;> rfl
@[simp] theorem txSlot_wf (u : ProtUnit) (b : Option Bytes) (w : ProtUnit) : (s.txSlot u b).wf w = s.wf w := by
  cases b <;> cases w <;> rfl
@[simp] theorem txSlot_some (u : ProtUnit) (f : Bytes) : s.txSlot u (some f) = s.tx u f := rfl
@[simp] theorem txSlot_none (u : ProtUnit) : s.txSlot u none = s := rfl
@[simp] theorem txRegister_some (u : ProtUnit) (f : Bytes) : s.txRegister u (some f) = s.tx u f := rfl
@[simp] theorem txRegister_crc (u : ProtUnit) (b : Option Bytes) : (s.txRegister u b).crc = s.crc := by
  cases b <;> simp only [State.txRegister] <;> (try split) <;> rfl
@[simp] theorem txRegister_swns (u : ProtUnit) (b : Option Bytes) : (s.txRegister u b).swns = s.swns := by
  cases b <;> simp only [State.txRegister] <;> (try split) <;> rfl
@[simp] theorem txRegister_swnr (u : ProtUnit) (b : Option Bytes) : (s.txRegister u b).swnr = s.swnr := by
  cases b <;> simp only [State.txRegister] <;> (try split) <;> rfl
@[simp] theorem txRegister_abps (u : ProtUnit) (b : Option Bytes) : (s.txRegister u b).abps = s.abps := by
  cases b <;> simp only [State.txRegister] <;> (try split) <;> rfl
@[simp] theorem txRegister_abpr (u : ProtUnit) (b : Option Bytes) : (s.txRegister u b).abpr = s.abpr := by
  cases b <;> simp only [State.txRegister] <;> (try split) <;> rfl
@[simp] theorem txRegister_pnas (u : ProtUnit) (b : Option Bytes) : (s.txRegister u b).pnas = s.pnas := by
  cases b <;> simp only [State.txRegister] <;> (try split) <;> rfl
@[simp] theorem txRegister_pnar (u : ProtUnit) (b : Option Bytes) : (s.txRegister u b).pnar = s.pnar := by
  cases b <;> simp only [State.txRegister] <;> (try split) <;> rfl
@[simp] theorem txRegister_gbns (u : ProtUnit) (b : Option Bytes) : (s.txRegister u b).gbns = s.gbns := by
  cases b <;> simp only [State.txRegister] <;> (try split) <;> rfl
@[simp] theorem txRegister_gbnr (u : ProtUnit) (b : Option Bytes) : (s.txRegister u b).gbnr = s.gbnr := by
  cases b <;> simp only [State.txRegister] <;> (try split) <;> rfl
@[simp] theorem txRegister_srs (u : ProtUnit) (b : Option Bytes) : (s.txRegister u b).srs = s.srs := by
  cases b <;> simp only [State.txRegister] <;> (try split) <;> rfl
@[simp] theorem txRegister_srr (u : ProtUnit) (b : Option Bytes) : (s.txRegister u b).srr = s.srr := by
  cases b <;> simp only [State.txRegister] <;> (try split) <;> rfl
@[simp] theorem txRegister_cfg (u : ProtUnit) (b : Option Bytes) : (s.txRegister u b).cfg = s.cfg := by
  cases b <;> simp only [State.txRegister] <;> (try split) <;> rfl
@[simp] theorem txRegister_agenda (u : ProtUnit) (b : Option Bytes) : (s.txRegister u b).agenda = s.agenda := by
  cases b <;> simp only [State.txRegister] <;> (try split) <;> rfl
@[simp] theorem txRegister_flags (u : ProtUnit) (b : Option Bytes) (w : ProtUnit) : (s.txRegister u b).flags w = s.flags w := by
  cases b <;> simp only [State.txRegister] <;> (try split) <;> cases w <;> rfl
@[simp] theorem txRegister_tag (u : ProtUnit) (b : Option Bytes) (w : ProtUnit) : (s.txRegister u b).tag w = s.tag w := by
  cases b <;> simp only [State.txRegister] <;> (try split) <;> cases w <;> rfl
@[simp] theorem txRegister_wf (u : ProtUnit) (b : Option Bytes) (w : ProtUnit) : (s.txRegister u b).wf w = s.wf w := by
  cases b <;> simp only [State.txRegister] <;> (try split) <;> cases w <;> rfl

/-! ## The checksum register and reset -/

@[simp] theorem setCrc_crc (v : Byte) : (s.setCrc v).crc = v := rfl
@[simp] theorem setCrc_swns (v : Byte) : (s.setCrc v).swns = s.swns := rfl
@[simp] theorem setCrc_swnr (v : Byte) : (s.setCrc v).swnr = s.swnr := rfl
@[simp] theorem setCrc_abps (v : Byte) : (s.setCrc v).abps = s.abps := rfl
@[simp] theorem setCrc_abpr (v : Byte) : (s.setCrc v).abpr = s.abpr := rfl
@[simp] theorem setCrc_pnas (v : Byte) : (s.setCrc v).pnas = s.pnas := rfl
@[simp] theorem setCrc_pnar (v : Byte) : (s.setCrc v).pnar = s.pnar := rfl
@[simp] theorem setCrc_gbns (v : Byte) : (s.setCrc v).gbns = s.gbns := rfl
@[simp] theorem setCrc_gbnr (v : Byte) : (s.setCrc v).gbnr = s.gbnr := rfl
@[simp] theorem setCrc_srs (v : Byte) : (s.setCrc v).srs = s.srs := rfl
@[simp] theorem setCrc_srr (v : Byte) : (s.setCrc v).srr = s.srr := rfl
@[simp] theorem setCrc_wire (v : Byte) : (s.setCrc v).wire = s.wire := rfl
@[simp] theorem setCrc_cfg (v : Byte) : (s.setCrc v).cfg = s.cfg := rfl
@[simp] theorem setCrc_agenda (v : Byte) : (s.setCrc v).agenda = s.agenda := rfl
@[simp] theorem setCrc_outs (v : Byte) : (s.setCrc v).outs = s.outs := rfl
@[simp] theorem setCrc_draws (v : Byte) : (s.setCrc v).draws = s.draws := rfl
@[simp] theorem resetBlock_crc : s.resetBlock.crc = State.reset.crc := rfl
@[simp] theorem resetBlock_swns : s.resetBlock.swns = State.reset.swns := rfl
@[simp] theorem resetBlock_swnr : s.resetBlock.swnr = State.reset.swnr := rfl
@[simp] theorem resetBlock_abps : s.resetBlock.abps = State.reset.abps := rfl
@[simp] theorem resetBlock_abpr : s.resetBlock.abpr = State.reset.abpr := rfl
@[simp] theorem resetBlock_pnas : s.resetBlock.pnas = State.reset.pnas := rfl
@[simp] theorem resetBlock_pnar : s.resetBlock.pnar = State.reset.pnar := rfl
@[simp] theorem resetBlock_gbns : s.resetBlock.gbns = State.reset.gbns := rfl
@[simp] theorem resetBlock_gbnr : s.resetBlock.gbnr = State.reset.gbnr := rfl
@[simp] theorem resetBlock_srs : s.resetBlock.srs = State.reset.srs := rfl
@[simp] theorem resetBlock_srr : s.resetBlock.srr = State.reset.srr := rfl
@[simp] theorem resetBlock_wire : s.resetBlock.wire = s.wire := rfl
@[simp] theorem resetBlock_cfg : s.resetBlock.cfg = s.cfg := rfl
@[simp] theorem resetBlock_agenda : s.resetBlock.agenda = s.agenda := rfl
@[simp] theorem resetBlock_outs : s.resetBlock.outs = s.outs := rfl
@[simp] theorem resetBlock_draws : s.resetBlock.draws = s.draws := rfl
@[simp] theorem resetBlock_flags (u : ProtUnit) : s.resetBlock.flags u = .clear := by cases u <;> rfl

end Sys2Proof.Machine
end

