-- ==== Sys2Proof/Laws/Ops.lean ====
section
/-! SUPPORT. What each shared operation can do, once over: the two prologues, `STOP`, taking the fault, transmitting a
register, and the step itself. -/

namespace Sys2Proof.Machine

/-! ## The prologue (60_exceptions.md R341) -/

/-- A host operation of a working unit: its body when enabled, no step when not. -/
theorem hostOperation_of_working (u : ProtUnit) (en : Bool) (body : State → State) (s : State) (h : Working u s) :
    hostOperation u en body s = .next (if en then body s else s) := by
  obtain ⟨h1, h2, h3⟩ := h
  cases en <;> simp [hostOperation, h1, h2, h3]

/-- An operation of another agent of a working unit: its body when enabled, no step when not. -/
theorem eventOperation_of_working (u : ProtUnit) (en : Bool) (body : State → State) (s : State) (h : Working u s) :
    eventOperation u en body s = .next (if en then body s else s) := by
  obtain ⟨h1, h2, h3⟩ := h
  cases en <;> simp [eventOperation, h1, h2, h3]

/-- Everything a host operation can do. -/
theorem hostOperation_cases (u : ProtUnit) (en : Bool) (body : State → State) (s : State) :
    ((s.flags u).fault = true ∧ hostOperation u en body s = .next (s.answer .errFault)) ∨
    ((s.flags u).fault = false ∧ s.wf u = false ∧
      hostOperation u en body s = .next ((s.takeFault u badState).answer .errFault)) ∨
    ((s.flags u).fault = false ∧ s.wf u = true ∧ (s.flags u).closed = true ∧
      hostOperation u en body s = .next (s.answer .errClosed)) ∨
    (Working u s ∧ en = true ∧ hostOperation u en body s = .next (body s)) ∨
    (Working u s ∧ en = false ∧ hostOperation u en body s = .next s) := by
  unfold hostOperation Working
  cases (s.flags u).fault <;> cases (s.flags u).closed <;> cases s.wf u <;> cases en <;> simp

/-- Everything an operation of another agent can do. -/
theorem eventOperation_cases (u : ProtUnit) (en : Bool) (body : State → State) (s : State) :
    (((s.flags u).fault = true ∨ (s.flags u).closed = true) ∧ eventOperation u en body s = .next s) ∨
    ((s.flags u).fault = false ∧ (s.flags u).closed = false ∧ s.wf u = false ∧
      eventOperation u en body s = .next (s.takeFault u badState)) ∨
    (Working u s ∧ en = true ∧ eventOperation u en body s = .next (body s)) ∨
    (Working u s ∧ en = false ∧ eventOperation u en body s = .next s) := by
  unfold eventOperation Working
  cases (s.flags u).fault <;> cases (s.flags u).closed <;> cases s.wf u <;> cases en <;> simp

/-- Everything a `STOP` can do (R356). -/
theorem stopUnit_cases (u : ProtUnit) (s : State) :
    ((s.flags u).fault = true ∧ stopUnit u s = .next (s.answer .errFault)) ∨
    ((s.flags u).fault = false ∧ s.wf u = false ∧
      stopUnit u s = .next ((s.takeFault u badState).answer .errFault)) ∨
    ((s.flags u).fault = false ∧ s.wf u = true ∧
      ∃ t, t = (s.cancelTimers u).setFlags u { s.flags u with closed := true } ∧
        stopUnit u s = .next
          ((if s.sendInProgress u then t.emit (.done u .errClosed) else t).answer .ok)) := by
  unfold stopUnit
  cases (s.flags u).fault <;> cases s.wf u <;> simp

/-! ## Taking the fault (R343) -/

/-- The registers of the fault: flag and cause written, `closed` kept. -/
theorem takeFault_flags (s : State) (u : ProtUnit) (c : BitVec 2) :
    (s.takeFault u c).flags u = { s.flags u with fault := true, cause := c } := by
  simp [State.takeFault]

/-- No other unit's status registers change. -/
theorem takeFault_flags_of_ne (s : State) (u v : ProtUnit) (c : BitVec 2) (h : v ≠ u) :
    (s.takeFault u c).flags v = s.flags v := by
  simp [State.takeFault, setFlags_flags_of_ne s u v _ h]

@[simp] theorem takeFault_crc (s : State) (u : ProtUnit) (c : BitVec 2) : (s.takeFault u c).crc = s.crc := by
  simp [State.takeFault]
@[simp] theorem takeFault_wire (s : State) (u : ProtUnit) (c : BitVec 2) : (s.takeFault u c).wire = s.wire := by
  simp [State.takeFault]
@[simp] theorem takeFault_cfg (s : State) (u : ProtUnit) (c : BitVec 2) : (s.takeFault u c).cfg = s.cfg := by
  simp [State.takeFault]
@[simp] theorem takeFault_agenda (s : State) (u : ProtUnit) (c : BitVec 2) :
    (s.takeFault u c).agenda = s.agenda := by
  simp [State.takeFault]
@[simp] theorem takeFault_outs (s : State) (u : ProtUnit) (c : BitVec 2) : (s.takeFault u c).outs = s.outs := by
  simp [State.takeFault]
@[simp] theorem takeFault_draws (s : State) (u : ProtUnit) (c : BitVec 2) : (s.takeFault u c).draws = s.draws := by
  simp [State.takeFault]
@[simp] theorem takeFault_wf (s : State) (u v : ProtUnit) (c : BitVec 2) : (s.takeFault u c).wf v = s.wf v := by
  simp [State.takeFault]
@[simp] theorem takeFault_tag (s : State) (u v : ProtUnit) (c : BitVec 2) : (s.takeFault u c).tag v = s.tag v := by
  simp [State.takeFault]

/-! ## Transmitting a register -/

/-- Everything a transmission of a register can do: the frame it holds; of an empty register, a free datagram within
`FRAME_MAX` or nothing (A10). -/
theorem txRegister_cases (s : State) (u : ProtUnit) (b : Option Bytes) :
    (∃ f, b = some f ∧ s.txRegister u b = s.tx u f) ∨
    (b = none ∧ ((∃ f : Bytes, f.length ≤ s.cfg.frameMax ∧
        s.txRegister u b = State.tx { s with draws := s.draws + 1 } u f) ∨
      s.txRegister u b = { s with draws := s.draws + 1 })) := by
  cases b with
  | some f => exact .inl ⟨f, rfl, rfl⟩
  | none =>
    refine .inr ⟨rfl, ?_⟩
    simp only [State.txRegister]
    split
    · exact .inl ⟨_, by simp, rfl⟩
    · exact .inr rfl

/-- What a transmission of an empty register adds, in one form: nothing, or one datagram of the unit within `FRAME_MAX`,
handed over and put in flight (A10). -/
theorem txRegister_none (s : State) (u : ProtUnit) : ∃ (new : List Output) (n : Nat),
    (new = [] ∨ ∃ f : Bytes, f.length ≤ s.cfg.frameMax ∧ new = [Output.tx u f]) ∧
    s.txRegister u none =
      { s with outs := s.outs ++ new, wire := s.wire ++ datagramsOf new, draws := n } := by
  rcases txRegister_cases s u none with ⟨f, h, _⟩ | ⟨_, ⟨f, hf, h⟩ | h⟩
  · cases h
  · exact ⟨[Output.tx u f], s.draws + 1, .inr ⟨f, hf, rfl⟩, by rw [h]; rfl⟩
  · exact ⟨[], s.draws + 1, .inl rfl, by rw [h]; simp [datagramsOf]⟩

/-! ## Datagrams among outputs -/

theorem datagramsOf_append (a b : List Output) : datagramsOf (a ++ b) = datagramsOf a ++ datagramsOf b := by
  simp [datagramsOf]

/-! ## What is served -/

theorem takeFirst_some {α : Type} (p : α → Bool) (l : List α) (a : α) (rest : List α)
    (h : takeFirst p l = some (a, rest)) : p a = true ∧ a ∈ l ∧ rest.Sublist l := by
  induction l generalizing rest with
  | nil => simp [takeFirst] at h
  | cons x l ih =>
    simp only [takeFirst] at h
    split at h
    · simp only [Option.some.injEq, Prod.mk.injEq] at h
      obtain ⟨rfl, rfl⟩ := h
      exact ⟨‹_›, List.mem_cons_self, List.sublist_cons_self x l⟩
    · cases hr : takeFirst p l with
      | none => simp [hr] at h
      | some r =>
        obtain ⟨b, r'⟩ := r
        simp only [hr, Option.map_some, Option.some.injEq, Prod.mk.injEq] at h
        obtain ⟨rfl, rfl⟩ := h
        obtain ⟨h1, h2, h3⟩ := ih r' hr
        exact ⟨h1, List.mem_cons_of_mem _ h2, h3.cons_cons x⟩

theorem firstExpired_some (m : Nat) (a : TimerArray) (k : Nat) (h : firstExpired m a = some k) : k < m := by
  induction a with
  | nil => simp [firstExpired] at h
  | cons e rest ih =>
    simp only [firstExpired] at h
    split at h
    · rename_i hk; simp only [Option.some.injEq] at h; omega
    · exact ih h

/-- A timeout served for an expired timer is in range. -/
theorem dueTimeout_inRange (s : State) (i : Instr) (h : dueTimeout s = some i) : i.inRange s.cfg = true := by
  unfold dueTimeout at h
  split at h
  · cases h; rfl
  split at h
  · cases h; rfl
  split at h
  · cases h; rfl
  split at h
  · cases h; rfl
  split at h
  · obtain ⟨k, hk, rfl⟩ := Option.map_eq_some_iff.1 h
    have := firstExpired_some _ _ _ hk
    simpa [Instr.inRange, Instr.datagramLength] using this
  · cases h

/-- Everything a step that goes on can do: perform an operation with operands in range, take a datagram out of the
channel or an event off the agenda, answer a reserved code, or reset. -/
theorem step_cases (s t : State) (h : step s = .next t) :
    (∃ i rest w, i.inRange s.cfg = true ∧ rest.Sublist s.agenda ∧ w.Sublist s.wire ∧
      exec i { s with agenda := rest, wire := w } = .next t) ∨
    (∃ rest w, rest.Sublist s.agenda ∧ w.Sublist s.wire ∧ t = { s with agenda := rest, wire := w }) ∨
    (∃ rest, rest.Sublist s.agenda ∧
      t = { s with agenda := rest, outs := s.outs ++ [Output.ret (.status .errIllegal)] }) ∨
    (∃ rest, rest.Sublist s.agenda ∧ t = State.resetBlock { s with agenda := rest }) := by
  unfold step fetch at h
  cases hf : takeFirst (servable s) s.agenda with
  | none =>
    rw [hf] at h
    cases hd : dueTimeout s with
    | none =>
      simp only [hd, Host.Outcome.next.injEq] at h
      exact .inr (.inl ⟨s.agenda, s.wire, List.Sublist.refl _, List.Sublist.refl _, h.symm⟩)
    | some i =>
      simp only [hd] at h
      exact .inl ⟨i, s.agenda, s.wire, dueTimeout_inRange s i hd, List.Sublist.refl _, List.Sublist.refl _, h⟩
  | some r =>
    obtain ⟨e, rest⟩ := r
    have hs := (takeFirst_some _ _ _ _ hf).2.2
    rw [hf] at h
    simp only at h
    cases e with
    | offer o =>
      simp only [serve] at h
      cases hdec : decode o with
      | instr i =>
        by_cases hr : i.inRange s.cfg = true
        · simp only [hdec, runInRange, hr, if_true] at h
          exact .inl ⟨i, rest, s.wire, hr, hs, List.Sublist.refl _, h⟩
        · simp [hdec, runInRange, hr] at h
      | reserved op =>
        simp only [hdec, Host.Outcome.next.injEq] at h
        exact .inr (.inr (.inl ⟨rest, hs, h.symm⟩))
      | reject r => simp [hdec] at h
    | deliver k flip =>
      simp only [serve] at h
      cases hw : s.wire[k]? with
      | none =>
        simp only [hw, Host.Outcome.next.injEq] at h
        exact .inr (.inl ⟨rest, s.wire, hs, List.Sublist.refl _, h.symm⟩)
      | some x =>
        obtain ⟨u, d⟩ := x
        by_cases hr : (decodeDatagram u (corrupt flip d)).inRange s.cfg = true
        · simp only [hw, runInRange, hr, if_true] at h
          exact .inl ⟨_, rest, s.wire.eraseIdx k, hr, hs, List.eraseIdx_sublist .., h⟩
        · simp [hw, runInRange, hr] at h
    | lose k =>
      simp only [serve, Host.Outcome.next.injEq] at h
      exact .inr (.inl ⟨rest, s.wire.eraseIdx k, hs, List.eraseIdx_sublist .., h.symm⟩)
    | resetInput =>
      simp only [serve, Host.Outcome.next.injEq] at h
      exact .inr (.inr (.inr ⟨rest, hs, h.symm⟩))

/-- To show that every step keeps a property: it does not depend on the agenda, the channel and the outputs, reset
keeps it, and every operation with operands in range keeps it. -/
theorem step_keeps (P : State → Prop)
    (moved : ∀ s rest w o, P s → P { s with agenda := rest, wire := w, outs := o })
    (reset : ∀ s, P s → P s.resetBlock)
    (operation : ∀ i s t, i.inRange s.cfg = true → P s → exec i s = .next t → P t)
    (s t : State) (h : P s) (hs : step s = .next t) : P t := by
  rcases step_cases s t hs with ⟨i, rest, w, hr, _, _, he⟩ | ⟨rest, w, _, _, rfl⟩ | ⟨rest, _, rfl⟩ | ⟨rest, _, rfl⟩
  · exact operation i { s with agenda := rest, wire := w } t hr (moved s rest w s.outs h) he
  · exact moved s rest w s.outs h
  · exact moved s rest s.wire _ h
  · exact reset _ (moved s rest s.wire s.outs h)

end Sys2Proof.Machine
end

