-- ==== Sys2Proof/Laws/PerInstr.lean ====
section
/-! SUPPORT. One lemma per instruction: what its code, its port, its format and its frame are to each other. -/

namespace Sys2Proof.Laws.PortLaw

/-- An operation has a row of the table of 30_encoding.md R112 and no frame, its operand bytes are enough for the
row's format, and it is offered on the port of the row's agent; a frame has no code and is offered as a datagram. -/
def Statement (i : Instr) : Prop :=
  (∃ op f a, i.code = some op ∧ i.frame = none ∧ rowOf op = some (f, a) ∧ f.scalars ≤ i.operandBytes.length ∧
    encode i = .command a (op :: i.operandBytes)) ∨
  (i.code = none ∧ ∃ u d, i.frame = some (u, d) ∧ encode i = .datagram u d)

/-- An operation, from the row of its code. -/
theorem of_row (i : Instr) (op : Byte) (f : Format) (a : Agent) (hc : i.code = some op) (hf : i.frame = none)
    (hr : rowOf op = some (f, a)) (hn : f.scalars ≤ i.operandBytes.length) : Statement i :=
  .inl ⟨op, f, a, hc, hf, hr, hn, by simp [encode, hf, hc, issuerOf, hr]⟩

/-- A frame, from its unit and its bytes. -/
theorem of_frame (i : Instr) (u : ProtUnit) (d : Bytes) (hc : i.code = none) (hf : i.frame = some (u, d)) :
    Statement i :=
  .inr ⟨hc, u, d, hf, by simp [encode, hf]⟩

theorem crcClr : Statement .crcClr :=
  of_row _ 0x00 .op0 .host rfl rfl rfl (Nat.zero_le _)

theorem crcShift (b : BitVec 1) : Statement (.crcShift b) :=
  of_row _ 0x01 .op1 .host rfl rfl rfl (by simp [Instr.operandBytes, Format.scalars])

theorem crcByte (v : Byte) : Statement (.crcByte v) :=
  of_row _ 0x02 .op1 .host rfl rfl rfl (by simp [Instr.operandBytes, Format.scalars])

theorem crcAug : Statement .crcAug :=
  of_row _ 0x03 .op0 .host rfl rfl rfl (Nat.zero_le _)

theorem crcRead : Statement .crcRead :=
  of_row _ 0x04 .op0 .host rfl rfl rfl (Nat.zero_le _)

theorem crcCompute (d : Bytes) : Statement (.crcCompute d) :=
  of_row _ 0x05 .opD .host rfl rfl rfl (Nat.zero_le _)

theorem crcVerify (d : Bytes) : Statement (.crcVerify d) :=
  of_row _ 0x06 .opD .host rfl rfl rfl (Nat.zero_le _)

theorem frmEnc (p : Bytes) : Statement (.frmEnc p) :=
  of_row _ 0x10 .opD .host rfl rfl rfl (Nat.zero_le _)

theorem frmEncs (q : Byte) (p : Bytes) : Statement (.frmEncs q p) :=
  of_row _ 0x11 .opSD .host rfl rfl rfl (by simp [Instr.operandBytes, Format.scalars])

theorem frmDec (d : Bytes) : Statement (.frmDec d) :=
  of_row _ 0x12 .opD .host rfl rfl rfl (Nat.zero_le _)

theorem frmDecs (d : Bytes) : Statement (.frmDecs d) :=
  of_row _ 0x13 .opD .host rfl rfl rfl (Nat.zero_le _)

theorem winTest (low high modulus value : Nat) : Statement (.winTest low high modulus value) :=
  of_row _ 0x20 .op4 .host rfl rfl rfl (by simp [Instr.operandBytes, Format.scalars])

theorem swnsSend (p : Bytes) : Statement (.swnsSend p) :=
  of_row _ 0x30 .opD .host rfl rfl rfl (Nat.zero_le _)

theorem swnsRx (d : Bytes) : Statement (.swnsRx d) :=
  of_row _ 0x31 .opD .channel rfl rfl rfl (Nat.zero_le _)

theorem swnsTmo : Statement .swnsTmo :=
  of_row _ 0x32 .op0 .timer rfl rfl rfl (Nat.zero_le _)

theorem swnsTick : Statement .swnsTick :=
  of_row _ 0x33 .op0 .tick rfl rfl rfl (Nat.zero_le _)

theorem swnsStop : Statement .swnsStop :=
  of_row _ 0x34 .op0 .host rfl rfl rfl (Nat.zero_le _)

theorem swnrRx (d : Bytes) : Statement (.swnrRx d) :=
  of_row _ 0x41 .opD .channel rfl rfl rfl (Nat.zero_le _)

theorem swnrStop : Statement .swnrStop :=
  of_row _ 0x44 .op0 .host rfl rfl rfl (Nat.zero_le _)

theorem abpsSend (p : Bytes) : Statement (.abpsSend p) :=
  of_row _ 0x50 .opD .host rfl rfl rfl (Nat.zero_le _)

theorem abpsRx (d : Bytes) : Statement (.abpsRx d) :=
  of_row _ 0x51 .opD .channel rfl rfl rfl (Nat.zero_le _)

theorem abpsTmo : Statement .abpsTmo :=
  of_row _ 0x52 .op0 .timer rfl rfl rfl (Nat.zero_le _)

theorem abpsTick : Statement .abpsTick :=
  of_row _ 0x53 .op0 .tick rfl rfl rfl (Nat.zero_le _)

theorem abpsStop : Statement .abpsStop :=
  of_row _ 0x54 .op0 .host rfl rfl rfl (Nat.zero_le _)

theorem abprRx (d : Bytes) : Statement (.abprRx d) :=
  of_row _ 0x61 .opD .channel rfl rfl rfl (Nat.zero_le _)

theorem abprStop : Statement .abprStop :=
  of_row _ 0x64 .op0 .host rfl rfl rfl (Nat.zero_le _)

theorem pnasSend (p : Bytes) : Statement (.pnasSend p) :=
  of_row _ 0x70 .opD .host rfl rfl rfl (Nat.zero_le _)

theorem pnasRx (d : Bytes) : Statement (.pnasRx d) :=
  of_row _ 0x71 .opD .channel rfl rfl rfl (Nat.zero_le _)

theorem pnasTmo : Statement .pnasTmo :=
  of_row _ 0x72 .op0 .timer rfl rfl rfl (Nat.zero_le _)

theorem pnasTick : Statement .pnasTick :=
  of_row _ 0x73 .op0 .tick rfl rfl rfl (Nat.zero_le _)

theorem pnasStop : Statement .pnasStop :=
  of_row _ 0x74 .op0 .host rfl rfl rfl (Nat.zero_le _)

theorem pnarRx (d : Bytes) : Statement (.pnarRx d) :=
  of_row _ 0x81 .opD .channel rfl rfl rfl (Nat.zero_le _)

theorem pnarStop : Statement .pnarStop :=
  of_row _ 0x84 .op0 .host rfl rfl rfl (Nat.zero_le _)

theorem gbnsSend (p : Bytes) : Statement (.gbnsSend p) :=
  of_row _ 0x90 .opD .host rfl rfl rfl (Nat.zero_le _)

theorem gbnsRx (d : Bytes) : Statement (.gbnsRx d) :=
  of_row _ 0x91 .opD .channel rfl rfl rfl (Nat.zero_le _)

theorem gbnsTmo : Statement .gbnsTmo :=
  of_row _ 0x92 .op0 .timer rfl rfl rfl (Nat.zero_le _)

theorem gbnsTick : Statement .gbnsTick :=
  of_row _ 0x93 .op0 .tick rfl rfl rfl (Nat.zero_le _)

theorem gbnsStop : Statement .gbnsStop :=
  of_row _ 0x94 .op0 .host rfl rfl rfl (Nat.zero_le _)

theorem gbnsCansend : Statement .gbnsCansend :=
  of_row _ 0x95 .op0 .host rfl rfl rfl (Nat.zero_le _)

theorem gbnrRx (d : Bytes) : Statement (.gbnrRx d) :=
  of_row _ 0xA1 .opD .channel rfl rfl rfl (Nat.zero_le _)

theorem gbnrStop : Statement .gbnrStop :=
  of_row _ 0xA4 .op0 .host rfl rfl rfl (Nat.zero_le _)

theorem srsSend (p : Bytes) : Statement (.srsSend p) :=
  of_row _ 0xB0 .opD .host rfl rfl rfl (Nat.zero_le _)

theorem srsRx (d : Bytes) : Statement (.srsRx d) :=
  of_row _ 0xB1 .opD .channel rfl rfl rfl (Nat.zero_le _)

theorem srsTmo (k : Nat) : Statement (.srsTmo k) :=
  of_row _ 0xB2 .op1 .timer rfl rfl rfl (by simp [Instr.operandBytes, Format.scalars])

theorem srsTick : Statement .srsTick :=
  of_row _ 0xB3 .op0 .tick rfl rfl rfl (Nat.zero_le _)

theorem srsStop : Statement .srsStop :=
  of_row _ 0xB4 .op0 .host rfl rfl rfl (Nat.zero_le _)

theorem srsCansend : Statement .srsCansend :=
  of_row _ 0xB5 .op0 .host rfl rfl rfl (Nat.zero_le _)

theorem srrRx (d : Bytes) : Statement (.srrRx d) :=
  of_row _ 0xC1 .opD .channel rfl rfl rfl (Nat.zero_le _)

theorem srrStop : Statement .srrStop :=
  of_row _ 0xC4 .op0 .host rfl rfl rfl (Nat.zero_le _)

theorem sysReset : Statement .sysReset :=
  of_row _ 0xF0 .op0 .host rfl rfl rfl (Nat.zero_le _)

theorem wireN (u : ProtUnit) (p : Bytes) (c : Byte) : Statement (.wireN u p c) :=
  of_frame _ u (p ++ [c]) rfl rfl

theorem wireS (u : ProtUnit) (q : Byte) (p : Bytes) (c : Byte) : Statement (.wireS u q p c) :=
  of_frame _ u (q :: (p ++ [c])) rfl rfl

theorem nak0 : Statement .nak0 :=
  of_frame _ .swns [0x00] rfl rfl

theorem ack (u : ProtUnit) (q : Byte) (c : Byte) : Statement (.ack u q c) :=
  of_frame _ u (q :: (textAck ++ [c])) rfl rfl

theorem nak (q : Byte) (c : Byte) : Statement (.nak q c) :=
  of_frame _ .pnas (q :: (textNak ++ [c])) rfl rfl

end Sys2Proof.Laws.PortLaw
end

