-- ==== Sys2Proof/Tests/Slice0.lean ====
section
/-! SUPPORT. The model's own tests: ill-formed terms are refused, a word of every operation and frame decodes, the
worked values of 95_test_vectors.md come out, and every statement's hypotheses are met by something. -/

namespace Sys2Proof.Machine.Tests

-- One kernel evaluation at a time: many at once take a thread each.
set_option Elab.async false

/-! ## Helpers of the tests -/

/-- The operations run from `s` and end in a state of which `p` holds. -/
def endsWith (ops : List Instr) (s : State) (p : State → Bool) : Bool :=
  match execAll ops s with
  | .next t => p t
  | _ => false

/-- The outcome is the next state `t`. -/
def goesTo (o : Host.Outcome State Fault Refusal) (t : State) : Bool :=
  match o with
  | .next s => decide (s = t)
  | _ => false

/-- The outcome is the refusal `r`. -/
def refusedWith (o : Host.Outcome State Fault Refusal) (r : Refusal) : Bool :=
  match o with
  | .refused x => decide (x = r)
  | _ => false

/-- The state with these outputs added. -/
def withOuts (s : State) (os : List Output) : State :=
  { s with outs := s.outs ++ os }

/-- The state with these events on the agenda. -/
def offering (es : List Event) : State :=
  { State.reset with agenda := es }

/-- `ABPS` with the frame `00 78 6F` outstanding. -/
def waiting : State :=
  { State.reset with abps :=
    { state := waitAck, seq := 0, txbuf := some [0x00, 0x78, 0x6F], timer := ⟨true, 0⟩, flags := .clear } }

/-- `ABPS` with an illegal tag, the launch state of program P8. -/
def illegal : State :=
  { State.reset with abps := { State.reset.abps with state := 0b11#2 } }

/-- `ABPS` faulted. -/
def faulted : State :=
  illegal.takeFault .abps badState

/-- `ABPS` closed. -/
def closed : State :=
  State.reset.setFlags .abps { closed := true, fault := false, cause := 0 }

/-! ## Well-formedness: each check refuses an ill-formed term -/

theorem test_wellformed_accepts :
    WellFormed Cfg.vectors (.winTest 15 0 16 255) = true ∧ WellFormed Cfg.vectors (.winTest 255 255 256 0) = true ∧
    WellFormed Cfg.vectors (.srsTmo 8) = true ∧ WellFormed Cfg.vectors (.wireN .swns [] 1) = true ∧
    WellFormed Cfg.vectors (.swnsRx (List.replicate 64 0)) = true := by decide

theorem test_wellformed_refuses_modulus_zero : WellFormed Cfg.vectors (.winTest 0 0 0 0) = false := by decide
theorem test_wellformed_refuses_modulus_257 : WellFormed Cfg.vectors (.winTest 0 0 257 0) = false := by decide
theorem test_wellformed_refuses_low : WellFormed Cfg.vectors (.winTest 16 0 16 0) = false := by decide
theorem test_wellformed_refuses_high : WellFormed Cfg.vectors (.winTest 0 16 16 0) = false := by decide
theorem test_wellformed_refuses_value : WellFormed Cfg.vectors (.winTest 0 1 16 256) = false := by decide
theorem test_wellformed_refuses_wide_slot : (Instr.srsTmo 256).formed = false := by decide
theorem test_wellformed_refuses_slot_at_max : WellFormed Cfg.vectors (.srsTmo 9) = false := by decide
theorem test_wellformed_refuses_plain_frame_at_sequenced_unit :
    WellFormed Cfg.vectors (.wireN .abpr [0x41] 0xC0) = false := by decide
theorem test_wellformed_refuses_second_name_of_nak0 : WellFormed Cfg.vectors (.wireN .swns [] 0) = false := by decide
theorem test_wellformed_refuses_sequenced_frame_at_nak_only_unit :
    WellFormed Cfg.vectors (.wireS .swnr 0 [0x61] 0x20) = false := by decide
theorem test_wellformed_refuses_second_name_of_ack :
    WellFormed Cfg.vectors (.wireS .gbns 0 textAck 0x7F) = false := by decide
theorem test_wellformed_refuses_second_name_of_nak :
    WellFormed Cfg.vectors (.wireS .pnas 0 textNak 0x12) = false := by decide
theorem test_wellformed_refuses_ack_at_receiver : WellFormed Cfg.vectors (.ack .abpr 0 0x7F) = false := by decide
theorem test_wellformed_refuses_long_datagram :
    WellFormed Cfg.vectors (.swnsRx (List.replicate 65 0)) = false := by decide
theorem test_wellformed_refuses_long_frame :
    WellFormed Cfg.vectors (.wireS .abpr 0 (List.replicate 63 0) 0) = false := by decide

/-! ## Decoding: a word of every row, written from 30_encoding.md R100 to R104, R112 -/

theorem test_decode_crc :
    decode (.command .host [0x00]) = .instr .crcClr ∧
    decode (.command .host [0x01, 0x00]) = .instr (.crcShift 0) ∧
    decode (.command .host [0x02, 0x41]) = .instr (.crcByte 0x41) ∧
    decode (.command .host [0x03]) = .instr .crcAug ∧
    decode (.command .host [0x04]) = .instr .crcRead ∧
    decode (.command .host [0x05, 0x41]) = .instr (.crcCompute [0x41]) ∧
    decode (.command .host [0x06, 0x41, 0xC0]) = .instr (.crcVerify [0x41, 0xC0]) := by decide

theorem test_decode_frm_win_sys :
    decode (.command .host [0x10, 0x41]) = .instr (.frmEnc [0x41]) ∧
    decode (.command .host [0x11, 0xC8, 0x7A]) = .instr (.frmEncs 0xC8 [0x7A]) ∧
    decode (.command .host [0x12, 0x68, 0x69, 0x45]) = .instr (.frmDec [0x68, 0x69, 0x45]) ∧
    decode (.command .host [0x13, 0x00]) = .instr (.frmDecs [0x00]) ∧
    decode (.command .host [0x20, 14, 2, 16, 8]) = .instr (.winTest 14 2 16 8) ∧
    decode (.command .host [0x20, 255, 254, 0, 7]) = .instr (.winTest 255 254 256 7) ∧
    decode (.command .host [0xF0]) = .instr .sysReset := by decide

theorem test_decode_swn :
    decode (.command .host [0x30, 0x68, 0x69]) = .instr (.swnsSend [0x68, 0x69]) ∧
    decode (.command .channel [0x31, 0x00]) = .instr (.swnsRx [0x00]) ∧
    decode (.command .timer [0x32]) = .instr .swnsTmo ∧ decode (.command .tick [0x33]) = .instr .swnsTick ∧
    decode (.command .host [0x34]) = .instr .swnsStop ∧
    decode (.command .channel [0x41, 0x68]) = .instr (.swnrRx [0x68]) ∧
    decode (.command .host [0x44]) = .instr .swnrStop := by decide

theorem test_decode_abp :
    decode (.command .host [0x50, 0x78]) = .instr (.abpsSend [0x78]) ∧
    decode (.command .channel [0x51, 0x00]) = .instr (.abpsRx [0x00]) ∧
    decode (.command .timer [0x52]) = .instr .abpsTmo ∧ decode (.command .tick [0x53]) = .instr .abpsTick ∧
    decode (.command .host [0x54]) = .instr .abpsStop ∧
    decode (.command .channel [0x61, 0x68]) = .instr (.abprRx [0x68]) ∧
    decode (.command .host [0x64]) = .instr .abprStop := by decide

theorem test_decode_pna :
    decode (.command .host [0x70, 0x78]) = .instr (.pnasSend [0x78]) ∧
    decode (.command .channel [0x71, 0x00]) = .instr (.pnasRx [0x00]) ∧
    decode (.command .timer [0x72]) = .instr .pnasTmo ∧ decode (.command .tick [0x73]) = .instr .pnasTick ∧
    decode (.command .host [0x74]) = .instr .pnasStop ∧
    decode (.command .channel [0x81, 0x68]) = .instr (.pnarRx [0x68]) ∧
    decode (.command .host [0x84]) = .instr .pnarStop := by decide

theorem test_decode_gbn :
    decode (.command .host [0x90, 0x61]) = .instr (.gbnsSend [0x61]) ∧
    decode (.command .channel [0x91, 0x00]) = .instr (.gbnsRx [0x00]) ∧
    decode (.command .timer [0x92]) = .instr .gbnsTmo ∧ decode (.command .tick [0x93]) = .instr .gbnsTick ∧
    decode (.command .host [0x94]) = .instr .gbnsStop ∧ decode (.command .host [0x95]) = .instr .gbnsCansend ∧
    decode (.command .channel [0xA1, 0x61]) = .instr (.gbnrRx [0x61]) ∧
    decode (.command .host [0xA4]) = .instr .gbnrStop := by decide

theorem test_decode_sr :
    decode (.command .host [0xB0, 0x61]) = .instr (.srsSend [0x61]) ∧
    decode (.command .channel [0xB1, 0x00]) = .instr (.srsRx [0x00]) ∧
    decode (.command .timer [0xB2, 0x01]) = .instr (.srsTmo 1) ∧
    decode (.command .tick [0xB3]) = .instr .srsTick ∧ decode (.command .host [0xB4]) = .instr .srsStop ∧
    decode (.command .host [0xB5]) = .instr .srsCansend ∧
    decode (.command .channel [0xC1, 0x61]) = .instr (.srrRx [0x61]) ∧
    decode (.command .host [0xC4]) = .instr .srrStop := by decide

theorem test_decode_frames :
    decode (.datagram .swnr [0x68, 0x69, 0x45]) = .instr (.wireN .swnr [0x68, 0x69] 0x45) ∧
    decode (.datagram .srr [0x02, 0x63, 0x04]) = .instr (.wireS .srr 0x02 [0x63] 0x04) ∧
    decode (.datagram .swns [0x00]) = .instr .nak0 ∧
    decode (.datagram .gbns [0x02, 0x41, 0x43, 0x4B, 0x53]) = .instr (.ack .gbns 0x02 0x53) ∧
    decode (.datagram .pnas [0x00, 0x4E, 0x41, 0x4B, 0x12]) = .instr (.nak 0x00 0x12) := by decide

theorem test_decode_refuses :
    decode (.command .host []) = .reject .noCode ∧ decode (.command .host [0x00, 0x01]) = .reject .operandShape ∧
    decode (.command .host [0x01, 0x02]) = .reject .operandShape ∧
    decode (.command .host [0x20, 16, 2, 16, 8]) = .reject .operandShape ∧
    decode (.command .host [0x33]) = .reject .wrongPort ∧ decode (.command .tick [0x07]) = .reject .wrongPort ∧
    decode (.command .host [0x07]) = .reserved 0x07 := by decide

/-! ## Words of spec/opcode_table.json -/

theorem test_table_words :
    decodeTableWord 8 0x00 = some .crcClr ∧ decodeTableWord 8 0xF0 = some .sysReset ∧
    decodeTableWord 8 0xB2 = some (.srsTmo 0) ∧ decodeTableWord 8 0x30 = some (.swnsSend []) ∧
    decodeTableWord 40 0x0041434B7F = some (.ack .pnas 0x00 0x7F) ∧
    decodeTableWord 40 0x004E414B12 = some (.nak 0x00 0x12) ∧ decodeTableWord 8 0x07 = none := by decide +kernel

theorem test_step_runs_the_word_placed :
    goesTo (step (State.reset.withFetchWord 8 0x04)) (withOuts State.reset [.ret (.byte 0x00)]) = true ∧
    goesTo (step (State.reset.withFetchWord 8 0x95)) (withOuts State.reset [.ret (.truth true)]) = true := by decide +kernel

/-! ## The Checksum Engine (95_test_vectors.md 2.1 to 2.4) -/

theorem test_crc_step : crcStep 0x82 0 = 0x03 ∧ crcStep 0xFF 1 = 0xF8 ∧ crcStep 0x80 1 = 0x06 := by decide +kernel
theorem test_crc_byte : crcStepByte 0x41 0x00 = 0xC0 ∧ crcStepByte 0xFF 0xFF = 0x0C := by decide +kernel
theorem test_crc_compute :
    crcCompute [0x41] = 0xC0 ∧ crcCompute [0x31, 0x32, 0x33, 0x34, 0x35, 0x36, 0x37, 0x38, 0x39] = 0xF4 := by decide +kernel
theorem test_crc_verify :
    crcVerify [0x41, 0xC0] = true ∧ crcVerify [0x40, 0xC0] = false ∧ crcVerify [0xC2, 0x28, 0x69, 0x45] = true := by decide +kernel
theorem test_crc_operations :
    endsWith [.crcByte 0x41, .crcAug, .crcRead] State.reset
      (fun t => decide (t.crc = 0xC0 ∧ t.outs.getLast? = some (.ret (.byte 0xC0)))) = true := by decide +kernel
theorem test_crc_verify_leaves_residue :
    endsWith [.crcVerify [0x40, 0xC0]] State.reset
      (fun t => decide (t.crc = 0x07 ∧ t.outs = [.ret (.truth false)])) = true := by decide +kernel

/-! ## The Frame Codec (95_test_vectors.md 3.1 to 3.4) -/

theorem test_frames : encodeN [0x68, 0x69] = [0x68, 0x69, 0x45] ∧ encodeS 200 [0x7A] = [0xC8, 0x7A, 0x24] ∧
    ackFrame 9 = [0x09, 0x41, 0x43, 0x4B, 0xD9] ∧ nakFrame 1 = [0x01, 0x4E, 0x41, 0x4B, 0x04] := by decide +kernel
theorem test_text_dropped :
    textDecStandard [0x41, 0xFF, 0x43, 0x4B] = [0x41, 0x43, 0x4B] ∧ textDecStandard [0xE0, 0x80, 0x80] = [] ∧
    textDecStandard [0x61, 0xC3, 0x28] = [0x61, 0x28] ∧ textDecStandard [0xED, 0xA0, 0x80] = [] ∧
    textDecStandard [0xF4, 0x90, 0x80, 0x80] = [] := by decide +kernel
theorem test_text_kept :
    textDecStandard [0xE2, 0x82, 0xAC] = [0xE2, 0x82, 0xAC] ∧
    textDecStandard [0xF0, 0x9F, 0x98, 0x80] = [0xF0, 0x9F, 0x98, 0x80] := by decide +kernel
theorem test_classification :
    isAck .standard [0x00, 0x41, 0xFF, 0x43, 0x4B, 0x34] = true ∧ isAck .standard [0x00, 0x61, 0x63, 0x6B, 0x72] = false ∧
    isAck .standard [0x00, 0x41, 0x43, 0x4B, 0x20, 0x9A] = false := by decide +kernel
theorem test_frm_decode :
    goesTo (exec (.frmDecs [0x02, 0x41, 0x43, 0x4B, 0x53]) State.reset)
      (withOuts State.reset [.ret (.decodedSeq true (some 2) (some textAck))]) = true ∧
    goesTo (exec (.frmDec [0x68, 0x68, 0x45]) State.reset)
      (withOuts State.reset [.ret (.decoded false (some [0x68, 0x68]))]) = true := by decide +kernel
theorem test_frm_length_limit :
    goesTo (exec (.frmEnc (List.replicate 64 0)) State.reset)
      (withOuts State.reset [.ret (.status .errLen)]) = true ∧
    goesTo (exec (.frmEncs 0 (List.replicate 63 0)) State.reset)
      (withOuts State.reset [.ret (.status .errLen)]) = true := by decide +kernel

/-! ## The window helper (42_window_arith.md R192) -/

theorem test_win :
    inWindow 14 2 16 15 = true ∧ inWindow 14 2 16 1 = true ∧ inWindow 14 2 16 2 = false ∧
    inWindow 5 5 16 9 = true ∧ inWindow 7 2 9 200 = false ∧ inWindow 3 7 16 7 = false := by decide +kernel

/-! ## The protocol units (95_test_vectors.md P2 to P8) -/

theorem test_nak_only :
    endsWith [.swnsSend [0x68, 0x69], .swnrRx [0x68, 0x68, 0x45], .swnsTick, .nak0, .swnsTick, .swnsTick, .swnsTmo]
      State.reset (fun t => decide (t.swns = { State.reset.swns with txbuf := some [0x68, 0x69, 0x45] } ∧
        t.outs = [.tx .swns [0x68, 0x69, 0x45], .ret (.status .ok), .tx .swnr [0x00],
          .tx .swns [0x68, 0x69, 0x45], .done .swns .ok])) = true := by decide +kernel
theorem test_nak_only_delivers :
    endsWith [.wireN .swnr [0x68, 0x69] 0x45] State.reset
      (fun t => decide (t.outs = [.deliver .swnr [0x68, 0x69]])) = true := by decide +kernel
theorem test_alternating_bit :
    endsWith [.abpsSend [0x78], .abprRx [0x00, 0x78, 0x6F], .ack .abps 0x00 0x7F] State.reset
      (fun t => decide (t.abps.state = waitSend ∧ t.abps.seq = 1 ∧ t.abpr.expected = 1 ∧
        t.outs.drop 2 = [.deliver .abpr [0x78], .tx .abpr [0x00, 0x41, 0x43, 0x4B, 0x7F], .done .abps .ok])) = true := by decide +kernel
theorem test_alternating_bit_timeout :
    endsWith [.abpsTmo, .abpsTick] waiting (fun t => decide (t.abps.timer = ⟨true, 1⟩ ∧
      t.outs = [.tx .abps [0x00, 0x78, 0x6F]])) = true := by decide +kernel
theorem test_pos_neg :
    endsWith [.pnasSend [0x68, 0x69], .pnarRx [0x00, 0x68, 0x68, 0x45], .nak 0x00 0x12,
        .wireS .pnar 0x00 [0x68, 0x69] 0x45, .pnasRx [0x00, 0x41, 0x43, 0x4B, 0x7F]] State.reset
      (fun t => decide (t.pnas.seq = 1 ∧ t.pnas.state = waitSend ∧ t.pnar.expected = 1 ∧
        t.outs.drop 2 = [.tx .pnar [0x00, 0x4E, 0x41, 0x4B, 0x12], .tx .pnas [0x00, 0x68, 0x69, 0x45],
          .deliver .pnar [0x68, 0x69], .tx .pnar [0x00, 0x41, 0x43, 0x4B, 0x7F], .done .pnas .ok])) = true := by decide +kernel
theorem test_pos_neg_tick :
    endsWith [.pnasSend [0x68, 0x69], .pnasTick, .pnasTick, .pnasTmo] State.reset
      (fun t => decide (t.pnas.timer = ⟨true, 2⟩ ∧ t.outs.drop 2 = [.tx .pnas [0x00, 0x68, 0x69, 0x45]])) = true := by decide +kernel
theorem test_go_back_n_cumulative :
    endsWith [.gbnsSend [0x61], .gbnsSend [0x62], .gbnsSend [0x63], .gbnsSend [0x64],
        .ack .gbns 0x02 0x53, .gbnsRx [0x00, 0x41, 0x43, 0x4B, 0x7F], .gbnsTick, .gbnsTick, .gbnsTick, .gbnsTmo]
      State.reset (fun t => decide (t.gbns = {
          oldestUnacked := 3, nextToSend := 4, frames := [(3, [0x03, 0x64, 0x04])], timer := ⟨true, 3⟩, flags := .clear } ∧
        t.outs.drop 8 = [.tx .gbns [0x03, 0x64, 0x04]])) = true := by decide +kernel
theorem test_go_back_n_receiver :
    endsWith [.gbnrRx [0x01, 0x62, 0x3C], .gbnrRx [0x00, 0x61, 0x20], .gbnrRx [0x02, 0x63, 0x04]] State.reset
      (fun t => decide (t.gbnr.expected = 1 ∧ t.outs = [.deliver .gbnr [0x61],
        .tx .gbnr [0x00, 0x41, 0x43, 0x4B, 0x7F], .tx .gbnr [0x00, 0x41, 0x43, 0x4B, 0x7F]])) = true := by decide +kernel
theorem test_go_back_n_cansend :
    endsWith [.gbnsSend [0x61], .gbnsSend [0x62], .gbnsSend [0x63], .gbnsCansend, .gbnsSend [0x64], .gbnsCansend]
      State.reset (fun t => decide (t.outs.filter (fun o => o = .ret (.truth true) ∨ o = .ret (.truth false)) =
        [.ret (.truth true), .ret (.truth false)])) = true := by decide +kernel
theorem test_go_back_n_wrap :
    endsWith [.gbnsSend [0x65], .gbnsSend [0x66], .gbnsSend [0x67], .gbnsTick, .gbnsTick, .gbnsTick, .gbnsTmo]
      { State.reset with gbns := { State.reset.gbns with oldestUnacked := 14, nextToSend := 14 } }
      (fun t => decide (t.outs.drop 6 = [.tx .gbns [0x0E, 0x65, 0xEA], .tx .gbns [0x0F, 0x66, 0xF6],
        .tx .gbns [0x00, 0x67, 0x32]])) = true := by decide +kernel
theorem test_selective_repeat_sender :
    endsWith [.srsSend [0x61], .srsTick, .srsSend [0x62], .srsSend [0x63], .ack .srs 0x00 0x7F,
        .srsRx [0x02, 0x41, 0x43, 0x4B, 0x53], .srsTick, .srsTick, .srsTmo 1, .srsCansend] State.reset
      (fun t => decide (t.srs = {
          oldestUnacked := 1, nextToSend := 3, frames := [(1, [0x01, 0x62, 0x3C])], timers := [(1, ⟨true, 2⟩)], flags := .clear } ∧
        t.outs.drop 6 = [.tx .srs [0x01, 0x62, 0x3C], .ret (.truth true)])) = true := by decide +kernel
theorem test_selective_repeat_slides :
    endsWith [.srsSend [0x61], .srsSend [0x62], .srsRx [0x01, 0x41, 0x43, 0x4B, 0x69],
        .srsRx [0x00, 0x41, 0x43, 0x4B, 0x7F]] State.reset
      (fun t => decide (t.srs = { State.reset.srs with oldestUnacked := 2, nextToSend := 2 })) = true := by decide +kernel
theorem test_selective_repeat_receiver :
    endsWith [.srrRx [0x00, 0x61, 0x20], .srrRx [0x02, 0x63, 0x04], .srrRx [0x01, 0x62, 0x3C],
        .srrRx [0x01, 0x62, 0x3C]] State.reset
      (fun t => decide (t.srr.oldestExpected = 3 ∧ t.srr.reorder = [] ∧
        t.outs = [.tx .srr [0x00, 0x41, 0x43, 0x4B, 0x7F], .deliver .srr [0x61],
          .tx .srr [0x02, 0x41, 0x43, 0x4B, 0x53], .tx .srr [0x01, 0x41, 0x43, 0x4B, 0x69], .deliver .srr [0x62],
          .deliver .srr [0x63], .tx .srr [0x01, 0x41, 0x43, 0x4B, 0x69]])) = true := by decide +kernel
theorem test_fault_is_taken :
    endsWith [.abpsSend [0x78], .abpsStop, .gbnsSend [0x61]] illegal
      (fun t => decide (t.abps.flags = ⟨false, true, 1⟩ ∧ t.abps.state = 0b11#2 ∧
        t.outs = [.ret (.status .errFault), .ret (.status .errFault), .tx .gbns [0x00, 0x61, 0x20],
          .ret (.status .ok)])) = true := by decide +kernel
theorem test_reset_returns_from_fault :
    endsWith [.sysReset] faulted (fun t => decide (t = { State.reset with outs := [.ret (.status .ok)] })) = true := by decide +kernel
theorem test_stop_of_a_waiting_sender :
    endsWith [.abpsStop, .abpsSend [0x78], .abpsStop] waiting (fun t => decide (t.abps.timer = ⟨false, 0⟩ ∧
      t.abps.state = waitAck ∧ t.outs = [.done .abps .errClosed, .ret (.status .ok), .ret (.status .errClosed),
        .ret (.status .ok)])) = true := by decide +kernel
theorem test_stop_of_every_unit :
    endsWith [.swnsStop, .swnrStop, .abprStop, .pnasStop, .pnarStop, .gbnsStop, .gbnrStop, .srsStop, .srrStop]
      State.reset (fun t => decide (t.swns.flags.closed ∧ t.swnr.flags.closed ∧ t.abpr.flags.closed ∧
        t.pnas.flags.closed ∧ t.pnar.flags.closed ∧ t.gbns.flags.closed ∧ t.gbnr.flags.closed ∧
        t.srs.flags.closed ∧ t.srr.flags.closed ∧ ¬ t.abps.flags.closed)) = true := by decide +kernel

/-! ## Whole steps, through the agenda and the channel -/

/-- A frame sent, corrupted on the way, and answered with a NAK; then the copy arrives (P6, steps 1 to 5). -/
theorem test_steps_through_the_channel :
    (match Host.Core.run Sys2Proof.core 5 (offering
        [.offer (.command .host [0x30, 0x68, 0x69]), .deliver 0 (some 8), .deliver 0 none, .deliver 0 none]) with
      | .next t => decide (t.agenda = [] ∧ t.wire = [] ∧
          t.outs.drop 2 = [.tx .swnr [0x00], .tx .swns [0x68, 0x69, 0x45], .deliver .swnr [0x68, 0x69]])
      | _ => false) = true := by decide +kernel
theorem test_step_refuses_a_malformed_message :
    refusedWith (step (offering [.offer (.command .host [])])) (.notACommand .noCode) = true := by decide +kernel
theorem test_step_refuses_a_slot_at_max :
    refusedWith (step (offering [.offer (.command .timer [0xB2, 0x09])])) .operandRange = true := by decide +kernel
theorem test_exec_faults_on_no_such_slot : exec (.srsTmo 9) State.reset = .fault .noSuchSlot := by rfl
theorem test_step_answers_a_reserved_code :
    goesTo (step (offering [.offer (.command .host [0xD0])]))
      (withOuts State.reset [.ret (.status .errIllegal)]) = true := by decide +kernel

/-! ## Witnesses: what meets the hypotheses of each statement, clause by clause -/

theorem reset_working (u : ProtUnit) : Working u State.reset := by
  cases u <;> (unfold Working; decide)

theorem reset_registers : RegistersReset State.reset := by
  unfold RegistersReset; decide

/-- `SWNS` waiting, its timer expired. -/
def swnsWaiting : State :=
  { State.reset with swns := { state := waitAck, txbuf := some [0x78, 0x6F], timer := ⟨true, 0⟩, flags := .clear } }

/-- `PNAS` waiting, its timer expired. -/
def pnasWaiting : State :=
  { State.reset with pnas :=
    { state := waitAck, seq := 1, txbuf := some [0x01, 0x78, 0x7A], timer := ⟨true, 0⟩, flags := .clear } }

/-- `GBNS` with its window full across the wrap, its timer expired. -/
def gbnsFull : State :=
  { State.reset with gbns := {
      oldestUnacked := 14, nextToSend := 2,
      frames := [(0, [0x00, 0x67, 0x32]), (1, [0x01, 0x68, 0x0A]), (14, [0x0E, 0x65, 0xEA]), (15, [0x0F, 0x66, 0xF6])],
      timer := ⟨true, 0⟩, flags := .clear } }

/-- `GBNS` with three frames in flight: room for one more. -/
def gbnsRoom : State :=
  { State.reset with gbns := {
      oldestUnacked := 14, nextToSend := 1,
      frames := [(0, [0x00, 0x67, 0x32]), (14, [0x0E, 0x65, 0xEA]), (15, [0x0F, 0x66, 0xF6])],
      timer := ⟨true, 1⟩, flags := .clear } }

/-- `SRS` with its window full across the wrap: the numbers 7, 8, 0, 1, of which 8 and 0 are acknowledged. -/
def srsFull : State :=
  { State.reset with srs := {
      oldestUnacked := 7, nextToSend := 2, frames := [(1, [0x01, 0x62, 0x3C]), (7, [0x07, 0x68, 0x74])],
      timers := [(1, ⟨true, 2⟩), (7, ⟨true, 0⟩)], flags := .clear } }

/-- `SRR` expecting 0 with frame 2 buffered and the acknowledgments of 5 and 8 stored. -/
def srrBuffered : State :=
  { State.reset with srr := {
      oldestExpected := 0, reorder := [(2, [0x63])], acks := [(5, ackFrame 5), (8, ackFrame 8)], flags := .clear } }

/-- `GBNR` that has delivered frame 0. -/
def gbnrOne : State :=
  { State.reset with gbnr := { expected := 1, lastAck := some (ackFrame 0), flags := .clear } }

/-- A launch state in which the registers of `SRS` are illegal. -/
def srsIllegal : State :=
  { State.reset with srs := { State.reset.srs with nextToSend := 9 } }

/-- One datagram for `ABPR` in the channel. -/
def carrying (es : List Event) : State :=
  { State.reset with agenda := es, wire := [(.abpr, [0x00, 0x78, 0x6F])] }

theorem witness_SysResetRestoresEveryRegister : (offering [.resetInput]).agenda = .resetInput :: [] := by decide

theorem witness_FreshBlockAcceptsSends : RegistersReset State.reset ∧ State.reset.cfg.valid = true :=
  ⟨reset_registers, by decide⟩

/-- The five cases of a step: served, passed over, waiting, a timeout, nothing. -/
theorem witness_StepServesTheOffer :
    (decode (.command .host [0x04]) = .instr .crcRead ∧ WellFormed Cfg.vectors .crcRead = true ∧
      accepts .crcRead (offering [.offer (.command .host [0x04])]) = true) ∧
    (decode (.command .timer [0x52]) = .instr .abpsTmo ∧ WellFormed Cfg.vectors .abpsTmo = true ∧
      accepts .abpsTmo State.reset = false ∧ dueTimeout State.reset = none) ∧
    (waiting.agenda = [] ∧ dueTimeout waiting = some .abpsTmo) ∧
    (State.reset.agenda = [] ∧ dueTimeout State.reset = none) := by decide

theorem witness_HeldOperationChangesNothing :
    (Instr.gbnsSend []).inRange gbnsFull.cfg = true ∧ accepts (.gbnsSend []) gbnsFull = false ∧
    (Instr.srsTmo 8).inRange srsFull.cfg = true ∧ accepts (.srsTmo 8) srsFull = false := by decide

theorem witness_ReservedCodesAnswerIllegal :
    (offering [.offer (.command .host [0xFF, 0x01])]).agenda = .offer (.command .host (0xFF :: [0x01])) :: [] ∧
    rowOf 0xFF = none ∧ rowOf 0x07 = none ∧ rowOf 0xEF = none := by decide

theorem witness_DecodeOfEncodeIsIdentity :
    (Instr.winTest 255 255 256 255).formed = true ∧ (Instr.srsTmo 255).formed = true ∧
    (Instr.wireN .swns [] 1).formed = true ∧ (Instr.ack .srs 255 0).formed = true ∧
    (Instr.wireS .srr 0 textAck 0).formed = true := by decide

theorem witness_EncodeOfDecodeIsIdentity :
    decode (.command .timer [0xB2, 0xFF]) = .instr (.srsTmo 255) ∧
    decode (.datagram .abps [0x00, 0x00]) = .instr (.wireS .abps 0x00 [] 0x00) ∧
    decode (.datagram .abps [0x00]) = .instr (.abpsRx [0x00]) ∧ decode (.datagram .swns []) = .instr (.swnsRx []) := by
  decide

theorem witness_PortsCarryTheirOperations :
    decode (.command .tick [0xB3]) = .instr .srsTick ∧ decode (.command .host [0xC4]) = .instr .srrStop ∧
    decode (.command .host [0x33]) = .reject .wrongPort := by decide

theorem witness_ChecksumDetectsSingleBitErrors : 15 < 8 * (([0x41] : Bytes).length + 1) := by decide

theorem witness_ChecksumIsLinear : ([0x12, 0x34] : Bytes).length = ([0xAB, 0xCD] : Bytes).length := by decide

theorem witness_FrmOperationResults :
    (List.replicate 63 (0 : Byte)).length ≤ State.reset.cfg.frameMax - 1 ∧
    (List.replicate 64 (0 : Byte)).length > State.reset.cfg.frameMax - 1 ∧
    (List.replicate 62 (0 : Byte)).length ≤ State.reset.cfg.frameMax - 2 ∧
    (List.replicate 63 (0 : Byte)).length > State.reset.cfg.frameMax - 2 := by decide

theorem witness_FrameRoundTrip : Utf8 ([0xC3, 0xA9] ++ []) :=
  .char _ _ (.two 0xC3 0xA9 (by decide) (by decide) (by decide) (by decide)) .nil

theorem witness_TextDecoderContract :
    Utf8 ([0x7F] ++ []) ∧ Utf8Char [0xF4, 0x8F, 0xBF, 0xBF] ∧
    (¬ ∃ c tail, Utf8Char c ∧ (0xFF : Byte) :: ([] : Bytes) = c ++ tail) := by
  refine ⟨.char _ _ (.one 0x7F (by decide)) .nil,
    .fourF4 0x8F 0xBF 0xBF (by decide) (by decide) (by decide) (by decide) (by decide) (by decide), ?_⟩
  rintro ⟨c, tail, hc, he⟩
  cases hc <;> simp at he
  rename_i a ha
  obtain ⟨rfl, -⟩ := he
  exact absurd ha (by decide)

theorem witness_WinTestAnswers : 255 < 256 ∧ 0 < 256 ∧ 8 < 9 ∧ 0 < 1 := by decide

theorem witness_FullRingAndOutsideValues : 5 < 16 ∧ 15 < 16 ∧ 9 ≤ 9 := by decide

theorem witness_WindowHoldsExactlyItsSize : 14 < 16 ∧ 0 < 15 ∧ 15 < 16 ∧ 2 ≠ 14 := by decide

theorem witness_SelectiveRepeatWindowsDisjoint : 8 < 9 ∧ 1 ≤ 4 ∧ 4 ≤ 9 / 2 ∧ 0 < 2 ∧ 1 ≤ 2 / 2 := by decide

theorem witness_PrologueOfEveryOperation :
    (isSendOrCansend (.abpsSend []) = true ∧ instrUnit (.abpsSend []) = some .abps ∧
      (faulted.flags .abps).fault = true ∧ (illegal.flags .abps).fault = false ∧ illegal.wf .abps = false ∧
      (closed.flags .abps).fault = false ∧ closed.wf .abps = true ∧ (closed.flags .abps).closed = true) ∧
    (isEvent (.srsTmo 8) = true ∧ instrUnit (.srsTmo 8) = some .srs ∧ (Instr.srsTmo 8).inRange srsIllegal.cfg = true ∧
      (srsIllegal.flags .srs).fault = false ∧ (srsIllegal.flags .srs).closed = false ∧ srsIllegal.wf .srs = false) ∧
    (isStop .abpsStop = true ∧ instrUnit .abpsStop = some .abps) := by decide

theorem witness_FaultIsSticky :
    Instr.abpsTick ≠ .sysReset ∧ (faulted.flags .abps).fault = true ∧ goesTo (exec .abpsTick faulted) faulted = true ∧
    isStop .abpsStop = true ∧ isEvent .abpsTick = true ∧ instrUnit .abpsTick = some .abps ∧
    goesTo (exec (.gbnsSend []) faulted) faulted = false := by decide +kernel

theorem reset_no_fault : NoFaultAnywhere State.reset := by
  intro u; cases u <;> decide

theorem witness_NoStepFaults :
    State.reset.cfg.valid = true ∧ NoFaultAnywhere State.reset ∧ step State.reset = .next State.reset :=
  ⟨by decide, reset_no_fault, by rfl⟩

theorem witness_StopClosesTheUnit :
    waiting.abps.flags.fault = false ∧ waiting.wf .abps = true ∧ swnsWaiting.swns.flags.fault = false ∧
    swnsWaiting.wf .swns = true ∧ pnasWaiting.wf .pnas = true ∧ pnasWaiting.pnas.flags.fault = false ∧
    gbnsFull.wf .gbns = true ∧ gbnsFull.gbns.flags.fault = false ∧ srsFull.wf .srs = true ∧
    srsFull.srs.flags.fault = false ∧ srrBuffered.wf .srr = true ∧ srrBuffered.srr.flags.fault = false ∧
    gbnrOne.wf .gbnr = true ∧ gbnrOne.gbnr.flags.fault = false ∧ State.reset.swnr.flags.fault = false ∧
    State.reset.abpr.flags.fault = false ∧ State.reset.pnar.flags.fault = false := by decide

theorem full_working : Working .swns swnsWaiting ∧ Working .abps waiting ∧ Working .pnas pnasWaiting ∧
    Working .gbns gbnsFull ∧ Working .gbns gbnsRoom ∧ Working .srs srsFull ∧ Working .srr srrBuffered ∧
    Working .gbnr gbnrOne := by
  unfold Working; decide

theorem witness_TicksCountDown :
    Working .swns swnsWaiting ∧ Working .abps waiting ∧ Working .pnas pnasWaiting ∧ Working .gbns gbnsRoom ∧
    Working .srs srsFull ∧ 8 < srsFull.cfg.srMax ∧ srsFull.cfg.srMax ≤ 9 :=
  ⟨full_working.1, full_working.2.1, full_working.2.2.1, full_working.2.2.2.2.1, full_working.2.2.2.2.2.1, by decide,
    by decide⟩

theorem witness_TimerExpiresAtTheTthTick :
    Working .swns swnsWaiting ∧ swnsWaiting.swns.timer = ⟨true, 0⟩ ∧ Working .abps waiting ∧
    waiting.abps.timer = ⟨true, 0⟩ ∧ Working .pnas pnasWaiting ∧ pnasWaiting.pnas.timer = ⟨true, 0⟩ ∧
    Working .gbns gbnsRoom ∧ gbnsRoom.gbns.timer = ⟨true, 1⟩ ∧ Working .srs srsFull ∧ 8 < srsFull.cfg.srMax ∧
    timerAt srsFull.srs.timers 1 = ⟨true, 2⟩ ∧ timerAt srsFull.srs.timers 7 = ⟨true, 0⟩ ∧
    (timerAt srsFull.srs.timers 8).armed = false :=
  ⟨full_working.1, rfl, full_working.2.1, rfl, full_working.2.2.1, rfl, full_working.2.2.2.2.1, rfl,
    full_working.2.2.2.2.2.1, by decide⟩

theorem witness_NakOnlySender :
    Working .swns State.reset ∧ Working .swns swnsWaiting ∧ State.reset.swns.state = 0b01#2 ∧
    (List.replicate 63 (0 : Byte)).length ≤ State.reset.cfg.frameMax - 1 ∧
    (List.replicate 64 (0 : Byte)).length > State.reset.cfg.frameMax - 1 ∧ swnsWaiting.swns.state = 0b10#2 ∧
    swnsWaiting.swns.txbuf = some [0x78, 0x6F] ∧ swnsWaiting.swns.timer = ⟨true, 0⟩ ∧
    State.reset.swns.timer.armed = false :=
  ⟨reset_working _, full_working.1, by decide⟩

theorem witness_NakOnlyReceiver :
    Working .swnr State.reset ∧ crcVerify [0x68, 0x69, 0x45] = true ∧ 1 ≤ ([0x00] : Bytes).length ∧
    crcVerify [0x00] = true ∧ crcVerify [0x68, 0x68, 0x45] = false ∧ ([] : Bytes).length = 0 :=
  ⟨reset_working _, by decide +kernel⟩

theorem witness_AlternatingBitSender :
    Working .abps State.reset ∧ Working .abps waiting ∧ State.reset.abps.state = 0b01#2 ∧
    (List.replicate 62 (0 : Byte)).length ≤ State.reset.cfg.frameMax - 2 ∧
    (List.replicate 63 (0 : Byte)).length > State.reset.cfg.frameMax - 2 ∧ waiting.abps.state = 0b10#2 ∧
    isAck waiting.cfg.textDec (ackFrame 0) = true ∧ (seqOf (ackFrame 0)).toNat = waiting.abps.seq.toNat ∧
    (seqOf (ackFrame 1)).toNat ≠ waiting.abps.seq.toNat ∧ waiting.abps.timer = ⟨true, 0⟩ ∧
    waiting.abps.txbuf = some [0x00, 0x78, 0x6F] ∧ State.reset.abps.timer.armed = false :=
  ⟨reset_working _, full_working.2.1, by decide +kernel⟩

/-- Launch states that break 10_state.md R46: a sender waits with nothing kept. -/
def emptied : State :=
  { State.reset with
    swns := { swnsWaiting.swns with txbuf := none }, abps := { waiting.abps with txbuf := none },
    pnas := { pnasWaiting.pnas with txbuf := none } }

theorem witness_senders_with_nothing_kept :
    Working .swns emptied ∧ Working .abps emptied ∧ Working .pnas emptied ∧ emptied.swns.state = 0b10#2 ∧
    emptied.swns.txbuf = none ∧ emptied.abps.timer = ⟨true, 0⟩ ∧ emptied.abps.txbuf = none ∧
    emptied.pnas.state = 0b10#2 ∧ isAck emptied.cfg.textDec [] = false ∧ emptied.pnas.timer = ⟨true, 0⟩ ∧
    emptied.pnas.txbuf = none := by
  unfold Working; decide

theorem witness_AlternatingBitReceiver :
    Working .abpr State.reset ∧ validS (encodeS 0 [0x78]) = true ∧
    (seqOf (encodeS 0 [0x78])).toNat = State.reset.abpr.expected.toNat ∧
    (seqOf (encodeS 255 [])).toNat ≠ State.reset.abpr.expected.toNat ∧ validS [0x00] = false :=
  ⟨reset_working _, by decide +kernel⟩

theorem witness_PosNegSender :
    Working .pnas State.reset ∧ Working .pnas pnasWaiting ∧ State.reset.pnas.state = 0b01#2 ∧
    (List.replicate 62 (0 : Byte)).length ≤ State.reset.cfg.frameMax - 2 ∧
    (List.replicate 63 (0 : Byte)).length > State.reset.cfg.frameMax - 2 ∧ pnasWaiting.pnas.state = 0b10#2 ∧
    isAck pnasWaiting.cfg.textDec (ackFrame 255) = true ∧ isAck pnasWaiting.cfg.textDec (nakFrame 1) = false ∧
    pnasWaiting.pnas.timer = ⟨true, 0⟩ ∧ pnasWaiting.pnas.txbuf = some [0x01, 0x78, 0x7A] ∧
    State.reset.pnas.timer.armed = false :=
  ⟨reset_working _, full_working.2.2.1, by decide +kernel⟩

theorem witness_PosNegReceiver :
    Working .pnar State.reset ∧ validS [0x00, 0x68, 0x68, 0x45] = false ∧ validS (encodeS 0 []) = true ∧
    (seqOf (encodeS 0 [])).toNat = State.reset.pnar.expected.toNat ∧ validS (encodeS 255 []) = true ∧
    (seqOf (encodeS 255 [])).toNat ≠ State.reset.pnar.expected.toNat :=
  ⟨reset_working _, by decide +kernel⟩

/-- An invariant that every step keeps: a state that meets it and takes a step. -/
theorem witness_StopAndWaitInvariantKept :
    State.reset.cfg.valid = true ∧ RegistersReset State.reset ∧ StopAndWaitInv waiting ∧
    goesTo (step waiting) (State.tx { waiting with abps := { waiting.abps with timer := ⟨true, 2⟩ } } .abps
      [0x00, 0x78, 0x6F]) = true := by
  refine ⟨by decide, reset_registers, ?_, by decide⟩
  refine ⟨by unfold AwaitInv; decide, by unfold AwaitInv; decide, by unfold AwaitInv; decide, by decide, ?_⟩
  intro a h; cases h

theorem witness_CleanExchangeCompletesTheSend :
    Working .abps waiting ∧ Working .abpr waiting ∧ waiting.abps.state = 0b10#2 ∧
    waiting.abps.txbuf = some (encodeS (waiting.abps.seq.setWidth 8) [0x78]) ∧
    Working .pnas pnasWaiting ∧ Working .pnar pnasWaiting ∧ pnasWaiting.pnas.state = 0b10#2 ∧
    pnasWaiting.pnas.txbuf = some (encodeS (pnasWaiting.pnas.seq.setWidth 8) [0x78]) := by
  unfold Working; decide +kernel

theorem witness_CansendAnswers :
    gbnsFull.cfg.valid = true ∧ Working .gbns gbnsFull ∧ srsFull.cfg.valid = true ∧ Working .srs srsFull := by
  unfold Working; decide

theorem witness_GbnsSendEffect :
    Working .gbns gbnsRoom ∧ gbnsRoom.cfg.valid = true ∧ gbnInFlight gbnsRoom < gbnsRoom.cfg.gbnW ∧
    (List.replicate 62 (0 : Byte)).length ≤ gbnsRoom.cfg.frameMax - 2 ∧
    (List.replicate 63 (0 : Byte)).length > gbnsRoom.cfg.frameMax - 2 ∧
    Working .gbns gbnsFull ∧ gbnsFull.cfg.gbnW ≤ gbnInFlight gbnsFull :=
  ⟨full_working.2.2.2.2.1, by decide, by decide, by decide, by decide, full_working.2.2.2.1, by decide⟩

theorem witness_GbnsAckIsCumulative :
    Working .gbns gbnsFull ∧ isAck gbnsFull.cfg.textDec (ackFrame 1) = true ∧
    (seqOf (ackFrame 1)).toNat < gbnsFull.cfg.gbnMax ∧
    (memRead gbnsFull.gbns.frames (seqOf (ackFrame 1)).toNat).isSome = true ∧
    gbnsFull.cfg.gbnMax ≤ (seqOf (ackFrame 16)).toNat ∧ memRead gbnsFull.gbns.frames 13 = none ∧
    isAck gbnsFull.cfg.textDec (nakFrame 1) = false :=
  ⟨full_working.2.2.2.1, by decide +kernel⟩

theorem witness_GbnsTimeoutResendsTheWindow :
    Working .gbns gbnsFull ∧ gbnsFull.gbns.timer = ⟨true, 0⟩ ∧ Working .gbns gbnsRoom ∧ 0 < gbnsRoom.gbns.timer.cnt ∧
    Working .gbns State.reset ∧ State.reset.gbns.timer.armed = false :=
  ⟨full_working.2.2.2.1, rfl, full_working.2.2.2.2.1, by decide, reset_working _, rfl⟩

theorem witness_GbnReceiver :
    Working .gbnr State.reset ∧ validS (encodeS 0 [0x61]) = true ∧
    (seqOf (encodeS 0 [0x61])).toNat = State.reset.gbnr.expected ∧ State.reset.gbnr.lastAck = none ∧
    validS [0x00] = false ∧ Working .gbnr gbnrOne ∧ gbnrOne.gbnr.lastAck = some (ackFrame 0) ∧
    (seqOf (encodeS 0 [0x61])).toNat ≠ gbnrOne.gbnr.expected :=
  ⟨reset_working _, by decide +kernel, rfl, rfl, by decide, full_working.2.2.2.2.2.2.2, rfl, by decide⟩

theorem witness_GoBackNCumulativeScenario :
    Working .gbns State.reset ∧ State.reset.cfg.valid = true ∧ 4 ≤ State.reset.cfg.gbnW ∧
    State.reset.gbns.oldestUnacked = 0 ∧ State.reset.gbns.nextToSend = 0 ∧ State.reset.gbns.frames = [] ∧
    ([0x61] : Bytes).length ≤ State.reset.cfg.frameMax - 2 :=
  ⟨reset_working _, by decide⟩

theorem witness_GbnsInvariantKept :
    State.reset.cfg.valid = true ∧ RegistersReset State.reset ∧ GbnsInv gbnsFull ∧
    goesTo (step gbnsFull) (State.txAll { gbnsFull with gbns := { gbnsFull.gbns with timer := ⟨true, 3⟩ } } .gbns
      [[0x0E, 0x65, 0xEA], [0x0F, 0x66, 0xF6], [0x00, 0x67, 0x32], [0x01, 0x68, 0x0A]]) = true := by
  refine ⟨by decide, reset_registers, ⟨by decide, by decide, ?_, by decide⟩, by decide⟩
  have h : ∀ k : Fin 16, (memRead gbnsFull.gbns.frames k.val).isSome = true ↔
      (k.val + 16 - 14) % 16 < gbnInFlight gbnsFull := by decide
  exact fun k hk => h ⟨k, hk⟩

theorem witness_SrsSendEffect :
    Working .srs State.reset ∧ State.reset.cfg.valid = true ∧ srInFlight State.reset < State.reset.cfg.srW ∧
    (List.replicate 62 (0 : Byte)).length ≤ State.reset.cfg.frameMax - 2 ∧
    (List.replicate 63 (0 : Byte)).length > State.reset.cfg.frameMax - 2 ∧
    Working .srs srsFull ∧ srsFull.cfg.srW ≤ srInFlight srsFull :=
  ⟨reset_working _, by decide, by decide, by decide, by decide, full_working.2.2.2.2.2.1, by decide⟩

theorem witness_SrsAckIsIndividual :
    Working .srs srsFull ∧ srsFull.cfg.valid = true ∧ isAck srsFull.cfg.textDec (ackFrame 7) = true ∧
    (seqOf (ackFrame 7)).toNat < srsFull.cfg.srMax ∧
    ((seqOf (ackFrame 1)).toNat + srsFull.cfg.srMax - srsFull.srs.oldestUnacked) % srsFull.cfg.srMax < srsFull.cfg.srW ∧
    srsFull.cfg.srW ≤
      ((seqOf (ackFrame 2)).toNat + srsFull.cfg.srMax - srsFull.srs.oldestUnacked) % srsFull.cfg.srMax ∧
    srsFull.cfg.srMax ≤ (seqOf (ackFrame 9)).toNat ∧ isAck srsFull.cfg.textDec (nakFrame 7) = false :=
  ⟨full_working.2.2.2.2.2.1, by decide +kernel⟩

theorem witness_SrsTimeoutResendsOneFrame :
    Working .srs srsFull ∧ 7 < srsFull.cfg.srMax ∧ timerAt srsFull.srs.timers 7 = ⟨true, 0⟩ ∧
    memRead srsFull.srs.frames 7 = some [0x07, 0x68, 0x74] ∧ 0 < (timerAt srsFull.srs.timers 1).cnt ∧
    (timerAt srsFull.srs.timers 8).armed = false ∧ srsFull.cfg.srMax ≤ 9 :=
  ⟨full_working.2.2.2.2.2.1, by decide⟩

/-- A timer expired over an empty slot, which only a launch state has. -/
theorem witness_SrsTimeoutResendsOneFrame_empty :
    Working .srs { State.reset with srs := { State.reset.srs with timers := [(8, ⟨true, 0⟩)] } } ∧
    timerAt [(8, ⟨true, 0⟩)] 8 = ⟨true, 0⟩ ∧ memRead State.reset.srs.frames 8 = none := by
  unfold Working; decide

/-- Both ends of the receive window and of the shadow window, and the number between them. -/
theorem witness_SrrReceives :
    Working .srr srrBuffered ∧ srrBuffered.cfg.valid = true ∧ validS (encodeS 0 [0x61]) = true ∧
    validS (encodeS 3 [0x64]) = true ∧ (3 + 9 - 0) % 9 < srrBuffered.cfg.srW ∧ validS (encodeS 5 []) = true ∧
    srrBuffered.cfg.srMax - srrBuffered.cfg.srW ≤ (5 + 9 - 0) % 9 ∧
    memRead srrBuffered.srr.acks 5 = some (ackFrame 5) ∧ memRead srrBuffered.srr.acks 6 = none ∧
    srrBuffered.cfg.srW ≤ (4 + 9 - 0) % 9 ∧ (4 + 9 - 0) % 9 < srrBuffered.cfg.srMax - srrBuffered.cfg.srW ∧
    srrBuffered.cfg.srMax ≤ (seqOf (encodeS 9 [])).toNat ∧ validS [0x00] = false :=
  ⟨full_working.2.2.2.2.2.2.1, by decide +kernel⟩

theorem witness_SrsInvariantKept :
    State.reset.cfg.valid = true ∧ RegistersReset State.reset ∧ SrsInv srsFull ∧
    goesTo (step srsFull) (State.tx { srsFull with srs := { srsFull.srs with
      timers := [(1, ⟨true, 2⟩), (7, ⟨true, 2⟩)] } } .srs [0x07, 0x68, 0x74]) = true := by
  refine ⟨by decide, reset_registers, ⟨by decide, by decide, ?_, by decide, ?_⟩, by decide⟩
  · have h : ∀ k : Fin 9, (memRead srsFull.srs.frames k.val).isSome = true →
        (k.val + 9 - 7) % 9 < srInFlight srsFull := by decide
    exact fun k hk => h ⟨k, hk⟩
  · have h : ∀ k : Fin 9, (timerAt srsFull.srs.timers k.val).armed = true ↔
        (memRead srsFull.srs.frames k.val).isSome = true := by decide
    exact fun _ _ k hk => h ⟨k, hk⟩

theorem witness_SrrInvariantKept :
    State.reset.cfg.valid = true ∧ RegistersReset State.reset ∧ SrrInv srrBuffered ∧
    step srrBuffered = .next srrBuffered := by
  refine ⟨by decide, reset_registers, ⟨by decide, ?_, by decide, ?_⟩, by rfl⟩
  · have h : ∀ k : Fin 9, (memRead srrBuffered.srr.reorder k.val).isSome = true →
        (k.val + 9 - 0) % 9 < srrBuffered.cfg.srW := by decide
    exact fun k hk => h ⟨k, hk⟩
  · have h : ∀ k : Fin 9, memRead srrBuffered.srr.acks k.val = none ∨
        memRead srrBuffered.srr.acks k.val = some (ackFrame (BitVec.ofNat 8 k.val)) := by decide +kernel
    intro k hk a ha
    rcases h ⟨k, hk⟩ with h | h
    · rw [h] at ha; cases ha
    · rw [h] at ha; exact (Option.some.inj ha).symm

theorem witness_SelectiveRepeatIndependentScenario :
    Working .srs State.reset ∧ Working .srr State.reset ∧ State.reset.cfg.valid = true ∧ 3 ≤ State.reset.cfg.srW ∧
    State.reset.srs.oldestUnacked = 0 ∧ State.reset.srs.nextToSend = 0 ∧ State.reset.srs.frames = [] ∧
    State.reset.srs.timers = [] ∧ State.reset.srr.oldestExpected = 0 ∧ State.reset.srr.reorder = [] ∧
    ([0x61] : Bytes).length ≤ State.reset.cfg.frameMax - 2 :=
  ⟨reset_working _, reset_working _, by decide⟩

theorem witness_ArrivingFramesTakeEffect :
    Working .swnr State.reset ∧ Working .abpr State.reset ∧ Working .swns swnsWaiting ∧
    swnsWaiting.swns.state = 0b10#2 ∧ swnsWaiting.swns.txbuf = some [0x78, 0x6F] ∧ Working .abps waiting ∧
    waiting.abps.state = 0b10#2 ∧ Working .pnas pnasWaiting ∧ pnasWaiting.pnas.state = 0b10#2 ∧
    pnasWaiting.pnas.txbuf = some [0x01, 0x78, 0x7A] := by
  unfold Working; decide

theorem witness_MemoryStaysCanonical :
    Memory.wf srsFull = true ∧ Memory.wf gbnsFull = true ∧ step State.reset = .next State.reset ∧
    entriesRise 9 srsFull.srs.frames = true :=
  ⟨by decide, by decide, by rfl, by decide⟩

theorem witness_SizesKeptByEveryStep :
    State.reset.cfg.valid = true ∧ SizesFit State.reset ∧ step State.reset = .next State.reset := by
  refine ⟨by decide, ?_, by rfl⟩
  refine ⟨?_, ?_, ?_, ?_, ?_, ?_, by decide, by decide, by decide, by decide, fun k => Nat.zero_le _⟩
  · intro f h; cases h
  · intro f h; cases h
  · intro f h; cases h
  · intro k f h; cases h
  · intro k f h; cases h
  · intro k f h; cases h

theorem witness_UnitsShareNoState :
    instrUnit (.abpsSend [0x78]) = some .abps ∧ endsWith [.abpsSend [0x78]] State.reset (fun _ => true) = true := by
  decide +kernel

theorem witness_ChannelDeliversAtMostOnce :
    (carrying [.deliver 0 (some 23)]).agenda = .deliver 0 (some 23) :: [] ∧
    (carrying [.deliver 0 (some 23)]).wire[0]? = some (.abpr, [0x00, 0x78, 0x6F]) ∧
    ([0x00, 0x78, 0x6F] : Bytes).length ≤ State.reset.cfg.frameMax ∧
    (carrying [.deliver 0 (some 23)]).rxAccepts .abpr = true ∧ (carrying [.lose 0]).agenda = .lose 0 :: [] := by decide

/-- A datagram in flight to a sender that waits for nothing, and what the agents offer. -/
def unwanted (es : List Event) : State :=
  { State.reset with agenda := es, wire := [(.abps, ackFrame 0)] }

/-- The delivery that waits, alone and with an operation offered after it; a faulted and a closed unit, one with an
illegal code, a sender in each state and a receiver. -/
theorem witness_ChannelDeliversAtMostOnce_waits :
    (unwanted [.deliver 0 none]).wire[0]? = some (.abps, ackFrame 0) ∧
    (ackFrame 0).length ≤ State.reset.cfg.frameMax ∧ (unwanted [.deliver 0 none]).rxAccepts .abps = false ∧
    dueTimeout (unwanted [.deliver 0 none]) = none ∧
    goesTo (step (unwanted [.deliver 0 none])) (unwanted [.deliver 0 none]) = true ∧
    decode (.command .host [0x04]) = .instr .crcRead ∧
    (unwanted [.deliver 0 none, .offer (.command .host [0x04])]).rxAccepts .abps = false ∧
    accepts .crcRead (unwanted [.deliver 0 none, .offer (.command .host [0x04])]) = true ∧
    (faulted.flags .abps).fault = true ∧ (closed.flags .abps).closed = true ∧
    (illegal.flags .abps).fault = false ∧ (illegal.flags .abps).closed = false ∧ illegal.wf .abps = false ∧
    waiting.tag .abps = some 0b10#2 ∧ State.reset.tag .abps = some 0b01#2 := by decide +kernel

theorem witness_ConfigurationNeverChanges :
    step State.reset = .next State.reset ∧ endsWith [.crcByte 0x41] State.reset (fun t => decide (t.crc ≠ 0x00)) = true :=
  ⟨by rfl, by decide +kernel⟩

end Sys2Proof.Machine.Tests
end

section
/-! PROOFS. Which prologue an operation runs under, and O5: an operation that is not accepted is no step. -/

namespace Sys2Proof.Machine

/-! ## The prologue and acceptance (60_exceptions.md R341) -/

/-- `CANSEND` has no condition of its own (R261, R291), so it is never held. -/
@[simp] theorem hostAccepts_true (u : ProtUnit) (s : State) : hostAccepts u true s = true := by
  simp [hostAccepts]

/-- A host operation is held exactly in a working unit that is not ready for it. -/
theorem hostAccepts_eq_false_iff (u : ProtUnit) (en : Bool) (s : State) :
    hostAccepts u en s = false ↔ Working u s ∧ en = false := by
  simp only [hostAccepts, Working, Bool.or_eq_false_iff, Bool.not_eq_false']
  tauto

/-- An operation of another agent is held in a faulted or closed unit, and in a working one that is not ready for it. -/
theorem eventAccepts_eq_false_iff (u : ProtUnit) (en : Bool) (s : State) :
    eventAccepts u en s = false ↔
      (s.flags u).fault = true ∨ (s.flags u).closed = true ∨ Working u s ∧ en = false := by
  unfold eventAccepts Working
  cases (s.flags u).fault <;> cases (s.flags u).closed <;> simp

theorem hostOperation_of_not_accepts {u : ProtUnit} {en : Bool} {body : State → State} {s : State}
    (h : hostAccepts u en s = false) : hostOperation u en body s = .next s := by
  obtain ⟨hw, rfl⟩ := (hostAccepts_eq_false_iff u en s).1 h
  exact hostOperation_of_working u false body s hw

theorem eventOperation_of_not_accepts {u : ProtUnit} {en : Bool} {body : State → State} {s : State}
    (h : eventAccepts u en s = false) : eventOperation u en body s = .next s := by
  rcases (eventAccepts_eq_false_iff u en s).1 h with hf | hc | ⟨hw, rfl⟩
  · simp [eventOperation, hf]
  · simp [eventOperation, hc]
  · exact eventOperation_of_working u false body s hw

/-! ## Every operation under its prologue -/

/-- The arrival of a datagram runs under the second list of R341, with the enabling condition of the unit's `RX`. -/
theorem arrive_eq_eventOperation (u : ProtUnit) (d : Bytes) (s : State) :
    ∃ body, arrive u d s = eventOperation u (s.rxEnabled u) body s := by
  cases u <;> dsimp only [arrive] <;> exact ⟨_, rfl⟩

theorem execSrsTmo_of_lt {k : Nat} {s : State} (h : k < s.cfg.srMax) :
    ∃ body, execSrsTmo k s = eventOperation .srs (timerAt s.srs.timers k).expired body s :=
  ⟨_, if_pos h⟩

/-- `SEND` and `CANSEND` run under the first list of R341, with the enabling condition that `accepts` states. -/
theorem exec_eq_hostOperation (i : Instr) (s : State) (hi : isSendOrCansend i = true) :
    ∃ u en body, instrUnit i = some u ∧ accepts i s = hostAccepts u en s ∧
      exec i s = hostOperation u en body s := by
  cases i with
  | swnsSend p | abpsSend p | pnasSend p | gbnsSend p | srsSend p =>
    dsimp only [exec]
    exact ⟨_, _, _, rfl, rfl, rfl⟩
  | gbnsCansend =>
    dsimp only [exec]
    exact ⟨.gbns, true, _, rfl, (hostAccepts_true .gbns s).symm, rfl⟩
  | srsCansend =>
    dsimp only [exec]
    exact ⟨.srs, true, _, rfl, (hostAccepts_true .srs s).symm, rfl⟩
  | _ => cases hi

/-- `RX`, `TMO`, `TICK` and the frames run under the second list of R341, with the enabling condition that `accepts`
states. Only the slot of `SRS.TMO` has to be in range. -/
theorem exec_eq_eventOperation (i : Instr) (s : State) (hr : i.inRange s.cfg = true) (hi : isEvent i = true) :
    ∃ u en body, instrUnit i = some u ∧ accepts i s = eventAccepts u en s ∧
      exec i s = eventOperation u en body s := by
  have frame : ∀ u d, ∃ v en body, some u = some v ∧ s.rxAccepts u = eventAccepts v en s ∧
      arrive u d s = eventOperation v en body s := fun u d =>
    have ⟨body, hb⟩ := arrive_eq_eventOperation u d s
    ⟨u, s.rxEnabled u, body, rfl, rfl, hb⟩
  cases i with
  | swnsRx d | swnrRx d | abpsRx d | abprRx d | pnasRx d | pnarRx d | gbnsRx d | gbnrRx d | srsRx d | srrRx d =>
    exact frame _ d
  | swnsTmo | abpsTmo | pnasTmo | gbnsTmo | swnsTick | abpsTick | pnasTick | gbnsTick | srsTick =>
    dsimp only [exec]
    exact ⟨_, _, _, rfl, rfl, rfl⟩
  | srsTmo k =>
    have hk : k < s.cfg.srMax := by simpa [Instr.inRange, Instr.datagramLength] using hr
    obtain ⟨body, hb⟩ := execSrsTmo_of_lt hk
    exact ⟨_, _, body, rfl, rfl, hb⟩
  | wireN u p c => exact frame u _
  | wireS u q p c => exact frame u _
  | nak0 => exact frame .swns nak0Frame
  | ack u q c => exact frame u _
  | nak q c => exact frame .pnas _
  | _ => cases hi

/-- Outside the two lists of R341 nothing is held: `CRC`, `FRM`, `WIN`, `SYS` and the ten `STOP` (R356). -/
theorem accepts_of_no_prologue (i : Instr) (s : State) (hsend : isSendOrCansend i = false)
    (hevent : isEvent i = false) : accepts i s = true := by
  cases i with
  | crcClr | crcShift | crcByte | crcAug | crcRead | crcCompute | crcVerify => rfl
  | frmEnc | frmEncs | frmDec | frmDecs | winTest | sysReset => rfl
  | swnsStop | swnrStop | abpsStop | abprStop | pnasStop | pnarStop | gbnsStop | gbnrStop | srsStop | srrStop => rfl
  | swnsSend | abpsSend | pnasSend | gbnsSend | srsSend | gbnsCansend | srsCansend => cases hsend
  | _ => cases hevent

/-- Settles O5: under either list of R341 an operation that is not accepted is no step, and every other operation is
accepted. -/
theorem heldOperationChangesNothing : Obligations.HeldOperationChangesNothing := by
  intro i s hr ha
  cases hsend : isSendOrCansend i with
  | true =>
    obtain ⟨u, en, body, -, hacc, hexec⟩ := exec_eq_hostOperation i s hsend
    rw [hexec]
    exact hostOperation_of_not_accepts (hacc.symm.trans ha)
  | false =>
    cases hevent : isEvent i with
    | true =>
      obtain ⟨u, en, body, -, hacc, hexec⟩ := exec_eq_eventOperation i s hr hevent
      rw [hexec]
      exact eventOperation_of_not_accepts (hacc.symm.trans ha)
    | false => simp [accepts_of_no_prologue i s hsend hevent] at ha

end Sys2Proof.Machine
end

section
/-! PROOFS. What one operation of a unit can touch (10_state.md R20), the frame of every operation, and O58 and O60. -/

namespace Sys2Proof.Machine

variable {u : ProtUnit} {s t r : State}

/-! ## What a prologue lets through -/

/-- What holds of every outcome of a host operation: of the answers, of the fault, of being held, of the body. -/
theorem hostOperation_next (P : State → Prop) {en : Bool} {body : State → State}
    (h : hostOperation u en body s = .next t) (answer : ∀ x, P (s.answer x))
    (fault : s.wf u = false → P ((s.takeFault u badState).answer .errFault)) (held : P s)
    (run : Working u s → en = true → P (body s)) : P t := by
  rcases hostOperation_cases u en body s with ⟨_, e⟩ | ⟨_, hw, e⟩ | ⟨_, _, _, e⟩ | ⟨hw, hen, e⟩ | ⟨_, _, e⟩ <;>
    obtain rfl := Host.Outcome.next.inj (e.symm.trans h)
  · exact answer _
  · exact fault hw
  · exact answer _
  · exact run hw hen
  · exact held

/-- What holds of every outcome of an operation of another agent. -/
theorem eventOperation_next (P : State → Prop) {en : Bool} {body : State → State}
    (h : eventOperation u en body s = .next t) (fault : s.wf u = false → P (s.takeFault u badState)) (held : P s)
    (run : Working u s → en = true → P (body s)) : P t := by
  rcases eventOperation_cases u en body s with ⟨_, e⟩ | ⟨_, _, hw, e⟩ | ⟨hw, hen, e⟩ | ⟨_, _, e⟩ <;>
    obtain rfl := Host.Outcome.next.inj (e.symm.trans h)
  · exact held
  · exact fault hw
  · exact run hw hen
  · exact held

/-- The unit closed, its timers cancelled (60_exceptions.md R356). -/
def State.shut (s : State) (u : ProtUnit) : State :=
  (s.cancelTimers u).setFlags u { s.flags u with closed := true }

/-- What holds of every outcome of a `STOP`. -/
theorem stopUnit_next (P : State → Prop) (h : stopUnit u s = .next t) (answer : ∀ x, P (s.answer x))
    (fault : s.wf u = false → P ((s.takeFault u badState).answer .errFault))
    (shut : P ((s.shut u).answer .ok)) (failed : P (((s.shut u).emit (.done u .errClosed)).answer .ok)) : P t := by
  rcases stopUnit_cases u s with ⟨_, e⟩ | ⟨_, hw, e⟩ | ⟨_, _, r, rfl, e⟩ <;>
    obtain rfl := Host.Outcome.next.inj (e.symm.trans h)
  · exact answer _
  · exact fault hw
  · split
    · exact failed
    · exact shut

/-! ## Agreement outside a unit -/

theorem AgreeOutside.refl : AgreeOutside u s s := by simp [AgreeOutside]

theorem AgreeOutside.trans (h : AgreeOutside u s t) (h' : AgreeOutside u t r) : AgreeOutside u s r := by
  unfold AgreeOutside at *
  grind

/-- Another unit's registers are kept. -/
theorem AgreeOutside.sameUnit (h : AgreeOutside u s t) {v : ProtUnit} (hv : u ≠ v) : SameUnit v s t := by
  obtain ⟨-, -, -, h1, h2, h3, h4, h5, h6, h7, h8, h9, h10⟩ := h
  cases v
  exacts [h1 hv, h2 hv, h3 hv, h4 hv, h5 hv, h6 hv, h7 hv, h8 hv, h9 hv, h10 hv]

theorem agreeOutside_setFlags (s : State) (u : ProtUnit) (f : Flags) : AgreeOutside u s (s.setFlags u f) := by
  cases u <;> simp [AgreeOutside, State.setFlags]

theorem agreeOutside_cancelTimers (s : State) (u : ProtUnit) : AgreeOutside u s (s.cancelTimers u) := by
  cases u <;> simp [AgreeOutside, State.cancelTimers]

/-! ## Acting within a unit -/

/-- From `s` to `t` only unit `u` has acted: its registers may differ, its outputs are added in order, and what it
transmitted has entered the channel (10_state.md R20, 60_exceptions.md R361, R363). -/
def ActsWithin (u : ProtUnit) (s t : State) : Prop :=
  AgreeOutside u s t ∧ ∃ new, t.outs = s.outs ++ new ∧ (∀ o ∈ new, outputOf u o) ∧ t.wire = s.wire ++ datagramsOf new

namespace ActsWithin

theorem refl : ActsWithin u s s :=
  ⟨.refl, [], by simp [datagramsOf]⟩

theorem trans (h : ActsWithin u s t) (h' : ActsWithin u t r) : ActsWithin u s r := by
  obtain ⟨ha, new, ho, hp, hw⟩ := h
  obtain ⟨ha', new', ho', hp', hw'⟩ := h'
  refine ⟨ha.trans ha', new ++ new', by rw [ho', ho, List.append_assoc], ?_, ?_⟩
  · simp only [List.mem_append]
    rintro o (h | h)
    exacts [hp o h, hp' o h]
  · rw [hw', hw, datagramsOf_append, List.append_assoc]

/-- Then a write of the unit's registers, which puts nothing out. -/
theorem registers (h : ActsWithin u s t) (ha : AgreeOutside u t r := by simp [AgreeOutside])
    (ho : r.outs = t.outs := by rfl) (hw : r.wire = t.wire := by rfl) : ActsWithin u s r :=
  h.trans ⟨ha, [], by simp [ho, hw, datagramsOf]⟩

/-- Then an output that is no datagram. -/
theorem emit (h : ActsWithin u s t) {o : Output} (ho : outputOf u o) (hd : datagramsOf [o] = []) :
    ActsWithin u s (t.emit o) :=
  h.trans ⟨by simp [AgreeOutside], [o], by simpa [hd] using ho⟩

theorem deliver (h : ActsWithin u s t) {p : Bytes} : ActsWithin u s (t.emit (.deliver u p)) := h.emit rfl rfl

theorem done (h : ActsWithin u s t) {x : Status} : ActsWithin u s (t.emit (.done u x)) := h.emit rfl rfl

theorem ret (h : ActsWithin u s t) {v : RetVal} : ActsWithin u s (t.ret v) := h.emit trivial rfl

theorem answer (h : ActsWithin u s t) {x : Status} : ActsWithin u s (t.answer x) := h.ret

theorem tx (h : ActsWithin u s t) {d : Bytes} : ActsWithin u s (t.tx u d) :=
  h.trans ⟨by simp [AgreeOutside], [.tx u d], by simp [outputOf, datagramsOf]⟩

theorem txSlot (h : ActsWithin u s t) {b : Option Bytes} : ActsWithin u s (t.txSlot u b) := by
  cases b with
  | none => exact h
  | some f => exact h.tx

theorem txRegister (h : ActsWithin u s t) {b : Option Bytes} : ActsWithin u s (t.txRegister u b) := by
  rcases txRegister_cases t u b with ⟨f, -, e⟩ | ⟨-, ⟨f, -, e⟩ | e⟩ <;> rw [e]
  · exact h.tx
  · exact h.registers.tx
  · exact h.registers

theorem txAll (h : ActsWithin u s t) {fs : List Bytes} : ActsWithin u s (t.txAll u fs) := by
  induction fs generalizing t with
  | nil => exact h
  | cons f rest ih => exact ih h.tx

theorem deliverAll (h : ActsWithin u s t) {ps : List Bytes} : ActsWithin u s (t.deliverAll u ps) := by
  induction ps generalizing t with
  | nil => exact h
  | cons p rest ih => exact ih h.deliver

theorem setFlags (h : ActsWithin u s t) {f : Flags} : ActsWithin u s (t.setFlags u f) :=
  h.registers (agreeOutside_setFlags t u f) (by simp) (by simp)

theorem cancelTimers (h : ActsWithin u s t) : ActsWithin u s (t.cancelTimers u) :=
  h.registers (agreeOutside_cancelTimers t u) (by simp) (by simp)

/-- A host operation acts within its unit if its body does. -/
theorem hostOperation {en : Bool} {body : State → State} (h : hostOperation u en body s = .next t)
    (run : ActsWithin u s (body s)) : ActsWithin u s t :=
  hostOperation_next (ActsWithin u s) h (fun _ => refl.answer) (fun _ => refl.setFlags.cancelTimers.answer) refl
    (fun _ _ => run)

/-- An operation of another agent acts within its unit if its body does. -/
theorem eventOperation {en : Bool} {body : State → State} (h : eventOperation u en body s = .next t)
    (run : ActsWithin u s (body s)) : ActsWithin u s t :=
  eventOperation_next (ActsWithin u s) h (fun _ => refl.setFlags.cancelTimers) refl (fun _ _ => run)

theorem stopUnit (h : stopUnit u s = .next t) : ActsWithin u s t :=
  stopUnit_next (ActsWithin u s) h (fun _ => refl.answer) (fun _ => refl.setFlags.cancelTimers.answer)
    refl.cancelTimers.setFlags.answer refl.cancelTimers.setFlags.done.answer

theorem srrAccept (d : Bytes) : ActsWithin .srr s (s.srrAccept d) := by
  unfold State.srrAccept
  dsimp only
  split
  · exact refl.tx.registers.deliverAll
  · exact refl.tx.registers

end ActsWithin

/-! ## Frames are served as `RX` -/

/-- A frame belongs to the unit it has reached, is as long as its bytes, and is served as their arrival. -/
theorem arrives_of_frame {i : Instr} {d : Bytes} (h : i.frame = some (u, d)) :
    instrUnit i = some u ∧ (∀ c, i.inRange c = decide (d.length ≤ c.frameMax)) ∧ ∀ s, exec i s = arrive u d s := by
  cases i with
  | wireN v p c =>
    cases h
    exact ⟨rfl, fun _ => by simp [Instr.inRange, Instr.datagramLength], fun _ => rfl⟩
  | wireS v q p c =>
    cases h
    exact ⟨rfl, fun _ => by simp [Instr.inRange, Instr.datagramLength]; omega, fun _ => rfl⟩
  | nak0 | ack v q c | nak q c =>
    cases h
    exact ⟨rfl, fun _ => rfl, fun _ => rfl⟩
  | _ => cases h

/-- Every operation is a command: an arriving frame is the `RX` of its unit, with the same bytes (60_exceptions.md
R345). -/
theorem exec_eq_command (i : Instr) : ∃ j : Instr, j.frame = none ∧ instrUnit j = instrUnit i ∧
    (∀ c, j.inRange c = i.inRange c) ∧ ∀ s, exec i s = exec j s := by
  cases hf : i.frame with
  | none => exact ⟨i, hf, rfl, fun _ => rfl, fun _ => rfl⟩
  | some f =>
    obtain ⟨u, d⟩ := f
    obtain ⟨hu, hr, he⟩ := arrives_of_frame hf
    refine ⟨rxInstr u d, ?_, hu ▸ ?_, fun c => hr c ▸ ?_, fun s => he s ▸ ?_⟩ <;> cases u <;> rfl

/-! ## Every operation of a unit acts within it -/

open ActsWithin in
/-- The prologue of the unit (60_exceptions.md R341), then the writes and outputs of the operation. -/
theorem ActsWithin.command {i : Instr} (hc : i.frame = none) (hu : instrUnit i = some u) (h : exec i s = .next t) :
    ActsWithin u s t := by
  cases i with
  | swnsSend p | abpsSend p | pnasSend p | gbnsSend p | srsSend p =>
    cases hu
    dsimp only [exec] at h
    refine hostOperation h ?_
    split
    · exact refl.answer
    · exact refl.registers.tx.answer
  | gbnsCansend | srsCansend =>
    cases hu
    dsimp only [exec] at h
    exact hostOperation h refl.ret
  | swnsTick | abpsTick | pnasTick | gbnsTick | srsTick =>
    cases hu
    dsimp only [exec] at h
    exact eventOperation h refl.registers
  | swnsRx d | abpsTmo | pnasTmo =>
    cases hu
    dsimp only [exec] at h
    exact eventOperation h refl.txRegister.registers
  | swnsTmo =>
    cases hu
    dsimp only [exec] at h
    exact eventOperation h refl.registers.done
  | gbnsTmo =>
    cases hu
    dsimp only [exec] at h
    exact eventOperation h refl.registers.txAll
  | srsTmo k =>
    cases hu
    dsimp only [exec, execSrsTmo] at h
    split at h
    · exact eventOperation h refl.registers.txSlot
    · cases h
  | swnrRx d =>
    cases hu
    dsimp only [exec] at h
    refine eventOperation h ?_
    split
    · exact refl.deliver
    · exact refl.tx
  | abpsRx d =>
    cases hu
    dsimp only [exec] at h
    refine eventOperation h ?_
    split
    · exact refl.registers.done
    · exact refl
  | pnasRx d =>
    cases hu
    dsimp only [exec] at h
    refine eventOperation h ?_
    split
    · exact refl.registers.done
    · exact refl.txRegister.registers
  | abprRx d =>
    cases hu
    dsimp only [exec] at h
    refine eventOperation h ?_
    split
    · exact refl.deliver.tx.registers
    · exact refl.tx
  | pnarRx d =>
    cases hu
    dsimp only [exec] at h
    refine eventOperation h ?_
    split
    · exact refl.tx
    split
    · exact refl.deliver.tx.registers
    · exact refl.tx
  | gbnsRx d | srsRx d =>
    cases hu
    dsimp only [exec] at h
    refine eventOperation h ?_
    dsimp only
    split
    · exact refl.registers
    · exact refl
  | gbnrRx d =>
    cases hu
    dsimp only [exec] at h
    refine eventOperation h ?_
    split
    · exact refl.deliver.tx.registers
    · exact refl.txSlot
  | srrRx d =>
    cases hu
    dsimp only [exec] at h
    refine eventOperation h ?_
    dsimp only
    split
    · exact refl
    split
    · exact srrAccept d
    split
    · exact refl.txSlot
    · exact refl
  | swnsStop | swnrStop | abpsStop | abprStop | pnasStop | pnarStop | gbnsStop | gbnrStop | srsStop | srrStop =>
    cases hu
    exact stopUnit h
  | wireN | wireS | nak0 | ack | nak => cases hc
  | _ => cases hu

theorem exec_actsWithin {i : Instr} (hu : instrUnit i = some u) (h : exec i s = .next t) : ActsWithin u s t := by
  obtain ⟨j, hc, hj, -, he⟩ := exec_eq_command i
  exact .command hc (hj.trans hu) ((he s).symm.trans h)

/-- Settles O58: every operation of a unit is made of writes of its own registers and outputs on its own ports. -/
theorem unitsShareNoState : Obligations.UnitsShareNoState :=
  fun _ _ _ _ hu h => exec_actsWithin hu h

/-! ## The operations of no protocol unit -/

/-- The operations that write `CRC.reg` beside reset: all of the Checksum Engine but `CRC.READ` (10_state.md R27). -/
def writesCrc : Instr → Bool
  | .crcClr | .crcShift _ | .crcByte _ | .crcAug | .crcCompute _ | .crcVerify _ => true
  | _ => false

/-- Everything an operation of `CRC`, `FRM`, `WIN` or `SYS` can do: reset the block, answer, or write `CRC.reg` and
answer. -/
theorem exec_of_no_unit {i : Instr} (hu : instrUnit i = none) (h : exec i s = .next t) :
    (i = .sysReset ∧ t = s.resetBlock.answer .ok) ∨ (∃ v, t = s.ret v) ∨
      (writesCrc i = true ∧ ∃ c v, t = (s.setCrc c).ret v) := by
  cases i with
  | sysReset => exact .inl ⟨rfl, (Host.Outcome.next.inj h).symm⟩
  | crcRead | winTest low high modulus value => exact .inr (.inl ⟨_, (Host.Outcome.next.inj h).symm⟩)
  | frmEnc p | frmEncs q p | frmDec d | frmDecs d =>
    obtain rfl := Host.Outcome.next.inj h
    refine .inr (.inl ?_)
    split
    · exact ⟨_, rfl⟩
    · exact ⟨_, rfl⟩
  | crcClr | crcShift b | crcByte v | crcAug | crcCompute d | crcVerify d =>
    exact .inr (.inr ⟨rfl, _, _, (Host.Outcome.next.inj h).symm⟩)
  | _ => cases hu

/-- No operation changes the configuration (10_state.md R48). -/
theorem exec_cfg {i : Instr} (h : exec i s = .next t) : t.cfg = s.cfg := by
  cases hu : instrUnit i with
  | some u =>
    obtain ⟨⟨-, hcfg, -⟩, -⟩ := exec_actsWithin hu h
    exact hcfg
  | none => rcases exec_of_no_unit hu h with ⟨-, rfl⟩ | ⟨v, rfl⟩ | ⟨-, c, v, rfl⟩ <;> rfl

theorem step_cfg (h : step s = .next t) : t.cfg = s.cfg :=
  step_keeps (fun x => x.cfg = s.cfg) (fun _ _ _ _ hx => hx) (fun _ hx => hx)
    (fun _ _ _ _ hx he => (exec_cfg he).trans hx) s t rfl h

/-- `CRC.reg` is written by its own operations and by reset alone (10_state.md R20, R27). -/
theorem writesCrc_of_crc_ne {i : Instr} (h : exec i s = .next t) (hne : t.crc ≠ s.crc) :
    i = .sysReset ∨ writesCrc i = true := by
  cases hu : instrUnit i with
  | some u =>
    obtain ⟨⟨hcrc, -⟩, -⟩ := exec_actsWithin hu h
    exact absurd hcrc hne
  | none =>
    rcases exec_of_no_unit hu h with ⟨hi, -⟩ | ⟨v, rfl⟩ | ⟨hi, -⟩
    · exact .inl hi
    · exact absurd rfl hne
    · exact .inr hi

/-- Settles O60: every step is a move of the agenda and the channel, a reset, or an operation, and none of them writes
the configuration. -/
theorem configurationNeverChanges : Obligations.ConfigurationNeverChanges := by
  refine ⟨fun s t h => step_cfg h, fun i s t h hne => ?_⟩
  rcases writesCrc_of_crc_ne h hne with rfl | hi
  · simp
  · cases i with
    | crcClr | crcAug => simp
    | crcShift b | crcByte v | crcCompute d | crcVerify d => simp
    | _ => cases hi

/-! ## An invariant over the registers of one unit -/

/-- An operation of another unit, or of none but reset, leaves the registers of the unit as they are. -/
theorem exec_sameUnit {i : Instr} (hu : instrUnit i ≠ some u) (hr : i ≠ .sysReset) (h : exec i s = .next t) :
    SameUnit u s t := by
  cases hi : instrUnit i with
  | some v => exact (exec_actsWithin hi h).1.sameUnit (by rintro rfl; exact hu hi)
  | none =>
    rcases exec_of_no_unit hi h with ⟨hi, -⟩ | ⟨v, rfl⟩ | ⟨-, c, v, rfl⟩
    · exact absurd hi hr
    · cases u <;> rfl
    · cases u <;> rfl

/-- To show that every step keeps what the registers of one unit and the configuration determine: reset establishes it
and the unit's own commands, with operands in range, keep it. -/
theorem step_keeps_unit (u : ProtUnit) (P : State → Prop)
    (registers : ∀ s t, SameUnit u s t → t.cfg = s.cfg → P s → P t)
    (reset : ∀ s : State, s.cfg.valid = true → P s.resetBlock)
    (own : ∀ i s t, i.frame = none → instrUnit i = some u → i.inRange s.cfg = true → s.cfg.valid = true → P s →
      exec i s = .next t → P t)
    (s t : State) (hv : s.cfg.valid = true) (h : P s) (hs : step s = .next t) : P t := by
  refine (step_keeps (fun x => x.cfg.valid = true ∧ P x) ?_ ?_ ?_ s t ⟨hv, h⟩ hs).2
  · rintro s rest w o ⟨hv, h⟩
    exact ⟨hv, registers s _ (by cases u <;> rfl) rfl h⟩
  · rintro s ⟨hv, -⟩
    exact ⟨hv, reset s hv⟩
  · rintro i s t hr ⟨hv, h⟩ he
    have hcfg := exec_cfg he
    refine ⟨hcfg ▸ hv, ?_⟩
    by_cases hu : instrUnit i = some u
    · obtain ⟨j, hc, hj, hr', he'⟩ := exec_eq_command i
      exact own j s t hc (hj.trans hu) ((hr' _).trans hr) hv h ((he' s).symm.trans he)
    · by_cases hi : i = .sysReset
      · subst hi
        obtain rfl := Host.Outcome.next.inj he
        exact registers s.resetBlock _ (by cases u <;> rfl) rfl (reset s hv)
      · exact registers s t (exec_sameUnit hu hi he) hcfg h

end Sys2Proof.Machine
end

section
/-! PROOFS. What the commands of each sender, and of `SRR`, can do to its registers, said once: the invariants of
10_state.md section 9 and the sizes of its registers are derived from these moves. -/

namespace Sys2Proof.Machine

variable {s t : State}

/-! ## The configuration, lengths, timers -/

/-- The window of `GBNS` under a valid configuration (00_scope.md R6). -/
theorem gbnW_of_valid {c : Cfg} (h : c.valid = true) : 0 < c.gbnW ∧ c.gbnW < c.gbnMax := by
  simp only [Cfg.valid, Bool.and_eq_true, decide_eq_true_eq] at h
  omega

/-- The window of Selective Repeat under a valid configuration: at most half the numbers (00_scope.md R6). -/
theorem srW_of_valid {c : Cfg} (h : c.valid = true) : 0 < c.srW ∧ c.srW < c.srMax := by
  simp only [Cfg.valid, Bool.and_eq_true, decide_eq_true_eq] at h
  omega

theorem frameMax_of_valid {c : Cfg} (h : c.valid = true) : 5 ≤ c.frameMax := by
  simp only [Cfg.valid, Bool.and_eq_true, decide_eq_true_eq] at h
  omega

@[simp] theorem encodeN_length (p : Bytes) : (encodeN p).length = p.length + 1 := by simp [encodeN]

@[simp] theorem encodeS_length (q : Byte) (p : Bytes) : (encodeS q p).length = p.length + 2 := by simp [encodeS]

theorem payloadS_length (d : Bytes) : (payloadS d).length = d.length - 2 := by
  simp [payloadS, Nat.sub_sub]

/-- The scan of 41_frame_codec.md R166 copies bytes or drops them. -/
theorem textScan_length_le (b : Bytes) : ∀ keep, (textScan keep b).length ≤ b.length := by
  induction b with
  | nil => intro keep; cases keep <;> simp [textScan]
  | cons a rest ih =>
    intro keep
    cases keep with
    | succ n => simpa [textScan] using ih n
    | zero =>
      simp only [textScan]
      split
      · exact Nat.le_succ_of_le (ih 0)
      · simpa using ih _

/-- No text decoder lengthens its input (R166). -/
theorem textDec_length_le (c : TextDecSel) (b : Bytes) : (textDec c b).length ≤ b.length := by
  cases c with
  | standard => exact textScan_length_le b 0
  | custom k =>
    simp only [textDec]
    split
    · exact Nat.le_refl _
    · exact List.length_take_le _ _

/-- A tick arms no timer and cancels none (60_exceptions.md R353). -/
@[simp] theorem Timer.tick_armed (x : Timer) : x.tick.armed = x.armed := by
  unfold Timer.tick
  split <;> rfl

theorem Timer.tick_cnt_le (x : Timer) : x.tick.cnt ≤ x.cnt := by
  unfold Timer.tick
  split
  · exact Nat.sub_le _ _
  · exact Nat.le_refl _

theorem Timer.armed_of_expired {x : Timer} (h : x.expired = true) : x.armed = true := by
  simp only [Timer.expired, Bool.and_eq_true] at h
  exact h.1

/-! ## The stop-and-wait senders -/

/-- The registers that the three stop-and-wait senders have in common (10_state.md R31, R33, R35). -/
structure SenderRegs where
  state : BitVec 2
  txbuf : Option Bytes
  timer : Timer
  flags : Flags

/-- `SWNS` has no register beside them. -/
def NakSender.regs (a : NakSender) : SenderRegs := ⟨a.state, a.txbuf, a.timer, a.flags⟩

/-- `ABPS` and `PNAS` have `seq` beside them. -/
def AltSender.regs (a : AltSender) : SenderRegs := ⟨a.state, a.txbuf, a.timer, a.flags⟩

/-- Everything a command of a stop-and-wait sender can do to these registers, with the timeout `T` and the longest frame
`fm`: nothing, keep a frame and wait, be done, start the timer again while waiting, count a tick, take the fault, close. -/
inductive SenderMove (fm T : Nat) (a : SenderRegs) : SenderRegs → Prop where
  | same : SenderMove fm T a a
  | load (f : Bytes) : a.flags.fault = false → a.flags.closed = false → f.length ≤ fm →
      SenderMove fm T a { a with state := waitAck, txbuf := some f, timer := timerStart T }
  | done : SenderMove fm T a { a with state := waitSend, timer := timerCancel }
  | restart : a.flags.fault = false → a.flags.closed = false → a.state = waitAck ∨ a.timer.armed = true →
      SenderMove fm T a { a with timer := timerStart T }
  | tick : SenderMove fm T a { a with timer := a.timer.tick }
  | fault : SenderMove fm T a { a with timer := timerCancel, flags := { a.flags with fault := true, cause := badState } }
  | shut : SenderMove fm T a { a with timer := timerCancel, flags := { a.flags with closed := true } }

theorem swns_command {i : Instr} (hv : s.cfg.valid = true) (hc : i.frame = none) (hu : instrUnit i = some .swns)
    (h : exec i s = .next t) : SenderMove s.cfg.frameMax s.cfg.tSwn s.swns.regs t.swns.regs := by
  have hfm := frameMax_of_valid hv
  cases i with
  | swnsSend p =>
    dsimp only [exec] at h
    refine hostOperation_next (SenderMove _ _ s.swns.regs ·.swns.regs)
      h (fun _ => .same) (fun _ => .fault) .same fun ⟨hf, hc, _⟩ _ => ?_
    split
    · exact .same
    · exact .load (encodeN p) hf hc (by simp only [encodeN_length]; omega)
  | swnsRx d =>
    dsimp only [exec] at h
    refine eventOperation_next (SenderMove _ _ s.swns.regs ·.swns.regs)
      h (fun _ => .fault) .same fun ⟨hf, hc, _⟩ hen => ?_
    simp only [txRegister_swns, txRegister_cfg]
    exact .restart (a := s.swns.regs) hf hc (.inl (of_decide_eq_true hen))
  | swnsTmo =>
    dsimp only [exec] at h
    exact eventOperation_next (SenderMove _ _ s.swns.regs ·.swns.regs) h (fun _ => .fault) .same fun _ _ => .done
  | swnsTick =>
    dsimp only [exec] at h
    exact eventOperation_next (SenderMove _ _ s.swns.regs ·.swns.regs) h (fun _ => .fault) .same fun _ _ => .tick
  | swnsStop =>
    exact stopUnit_next (u := .swns) (SenderMove _ _ s.swns.regs ·.swns.regs)
      h (fun _ => .same) (fun _ => .fault) .shut .shut
  | wireN | wireS | nak0 | ack | nak => cases hc
  | _ => cases hu

theorem abps_command {i : Instr} (hv : s.cfg.valid = true) (hc : i.frame = none) (hu : instrUnit i = some .abps)
    (h : exec i s = .next t) : SenderMove s.cfg.frameMax s.cfg.tAbp s.abps.regs t.abps.regs := by
  have hfm := frameMax_of_valid hv
  cases i with
  | abpsSend p =>
    dsimp only [exec] at h
    refine hostOperation_next (SenderMove _ _ s.abps.regs ·.abps.regs)
      h (fun _ => .same) (fun _ => .fault) .same fun ⟨hf, hc, _⟩ _ => ?_
    split
    · exact .same
    · exact .load (encodeS (seqByte s.abps.seq) p) hf hc (by simp only [encodeS_length]; omega)
  | abpsRx d =>
    dsimp only [exec] at h
    refine eventOperation_next (SenderMove _ _ s.abps.regs ·.abps.regs) h (fun _ => .fault) .same fun _ _ => ?_
    split
    · exact .done
    · exact .same
  | abpsTmo =>
    dsimp only [exec] at h
    refine eventOperation_next (SenderMove _ _ s.abps.regs ·.abps.regs)
      h (fun _ => .fault) .same fun ⟨hf, hc, _⟩ hen => ?_
    simp only [txRegister_abps, txRegister_cfg]
    exact .restart (a := s.abps.regs) hf hc (.inr (Timer.armed_of_expired hen))
  | abpsTick =>
    dsimp only [exec] at h
    exact eventOperation_next (SenderMove _ _ s.abps.regs ·.abps.regs) h (fun _ => .fault) .same fun _ _ => .tick
  | abpsStop =>
    exact stopUnit_next (u := .abps) (SenderMove _ _ s.abps.regs ·.abps.regs)
      h (fun _ => .same) (fun _ => .fault) .shut .shut
  | wireN | wireS | nak0 | ack | nak => cases hc
  | _ => cases hu

theorem pnas_command {i : Instr} (hv : s.cfg.valid = true) (hc : i.frame = none) (hu : instrUnit i = some .pnas)
    (h : exec i s = .next t) : SenderMove s.cfg.frameMax s.cfg.tPna s.pnas.regs t.pnas.regs := by
  have hfm := frameMax_of_valid hv
  cases i with
  | pnasSend p =>
    dsimp only [exec] at h
    refine hostOperation_next (SenderMove _ _ s.pnas.regs ·.pnas.regs)
      h (fun _ => .same) (fun _ => .fault) .same fun ⟨hf, hc, _⟩ _ => ?_
    split
    · exact .same
    · exact .load (encodeS (seqByte s.pnas.seq) p) hf hc (by simp only [encodeS_length]; omega)
  | pnasRx d =>
    dsimp only [exec] at h
    refine eventOperation_next (SenderMove _ _ s.pnas.regs ·.pnas.regs)
      h (fun _ => .fault) .same fun ⟨hf, hc, _⟩ hen => ?_
    split
    · exact .done
    · simp only [txRegister_pnas, txRegister_cfg]
      exact .restart (a := s.pnas.regs) hf hc (.inl (of_decide_eq_true hen))
  | pnasTmo =>
    dsimp only [exec] at h
    refine eventOperation_next (SenderMove _ _ s.pnas.regs ·.pnas.regs)
      h (fun _ => .fault) .same fun ⟨hf, hc, _⟩ hen => ?_
    simp only [txRegister_pnas, txRegister_cfg]
    exact .restart (a := s.pnas.regs) hf hc (.inr (Timer.armed_of_expired hen))
  | pnasTick =>
    dsimp only [exec] at h
    exact eventOperation_next (SenderMove _ _ s.pnas.regs ·.pnas.regs) h (fun _ => .fault) .same fun _ _ => .tick
  | pnasStop =>
    exact stopUnit_next (u := .pnas) (SenderMove _ _ s.pnas.regs ·.pnas.regs)
      h (fun _ => .same) (fun _ => .fault) .shut .shut
  | wireN | wireS | nak0 | ack | nak => cases hc
  | _ => cases hu

/-! ## `GBNS` -/

/-- Everything a command of `GBNS` can do to its registers. -/
inductive GbnsMove (s : State) : GbnSender → Prop where
  | same : GbnsMove s s.gbns
  | send (f : Bytes) : Working .gbns s → gbnCanSend s = true → f.length ≤ s.cfg.frameMax →
      GbnsMove s { s.gbns with
        frames := memWrite s.gbns.frames s.gbns.nextToSend (some f)
        nextToSend := seqInc s.gbns.nextToSend s.cfg.gbnMax
        timer := if s.gbns.oldestUnacked = s.gbns.nextToSend then timerStart s.cfg.tGbn else s.gbns.timer }
  | acknowledge (q : Nat) : Working .gbns s → q < s.cfg.gbnMax → (memRead s.gbns.frames q).isSome = true →
      GbnsMove s (s.gbns.acknowledge q s.cfg.gbnMax s.cfg.tGbn)
  | restart : s.gbns.timer.armed = true → GbnsMove s { s.gbns with timer := timerStart s.cfg.tGbn }
  | tick : GbnsMove s { s.gbns with timer := s.gbns.timer.tick }
  | fault : s.wf .gbns = false → GbnsMove s
      { s.gbns with timer := timerCancel, flags := { s.gbns.flags with fault := true, cause := badState } }
  | shut : GbnsMove s { s.gbns with timer := timerCancel, flags := { s.gbns.flags with closed := true } }

theorem gbns_command {i : Instr} (hv : s.cfg.valid = true) (hc : i.frame = none) (hu : instrUnit i = some .gbns)
    (h : exec i s = .next t) : GbnsMove s t.gbns := by
  have hfm := frameMax_of_valid hv
  cases i with
  | gbnsSend p =>
    dsimp only [exec] at h
    refine hostOperation_next (GbnsMove s ·.gbns) h (fun _ => .same) .fault .same fun hw hen => ?_
    split
    · exact .same
    · exact .send (encodeS (zext8 s.gbns.nextToSend) p) hw hen (by simp only [encodeS_length]; omega)
  | gbnsRx d =>
    dsimp only [exec] at h
    refine eventOperation_next (GbnsMove s ·.gbns) h .fault .same fun hw _ => ?_
    dsimp only
    split
    · rename_i hack
      simp only [Bool.and_eq_true, decide_eq_true_eq] at hack
      obtain ⟨⟨-, hq⟩, hslot⟩ := hack
      exact .acknowledge _ hw hq hslot
    · exact .same
  | gbnsTmo =>
    dsimp only [exec] at h
    refine eventOperation_next (GbnsMove s ·.gbns) h .fault .same fun _ hen => ?_
    dsimp only
    rw [txAll_eq]
    exact .restart (Timer.armed_of_expired hen)
  | gbnsTick =>
    dsimp only [exec] at h
    exact eventOperation_next (GbnsMove s ·.gbns) h .fault .same fun _ _ => .tick
  | gbnsCansend =>
    dsimp only [exec] at h
    exact hostOperation_next (GbnsMove s ·.gbns) h (fun _ => .same) .fault .same fun _ _ => .same
  | gbnsStop =>
    exact stopUnit_next (u := .gbns) (GbnsMove s ·.gbns) h (fun _ => .same) .fault .shut .shut
  | wireN | wireS | nak0 | ack | nak => cases hc
  | _ => cases hu

/-! ## `SRS` -/

/-- Everything a command of `SRS` can do to its registers. -/
inductive SrsMove (s : State) : SrSender → Prop where
  | same : SrsMove s s.srs
  | send (f : Bytes) : Working .srs s → srCanSend s = true → f.length ≤ s.cfg.frameMax →
      SrsMove s { s.srs with
        frames := memWrite s.srs.frames s.srs.nextToSend (some f)
        timers := setTimerAt s.srs.timers s.srs.nextToSend (timerStart s.cfg.tSr)
        nextToSend := seqInc s.srs.nextToSend s.cfg.srMax }
  | acknowledge (q : Nat) : Working .srs s → SrsMove s (s.srs.acknowledge q s.cfg.srMax)
  | restart (k : Nat) : (timerAt s.srs.timers k).armed = true →
      SrsMove s { s.srs with timers := setTimerAt s.srs.timers k (timerStart s.cfg.tSr) }
  | tick : SrsMove s { s.srs with timers := tickAll s.cfg.srMax s.srs.timers }
  | fault : s.wf .srs = false →
      SrsMove s { s.srs with timers := [], flags := { s.srs.flags with fault := true, cause := badState } }
  | shut : SrsMove s { s.srs with timers := [], flags := { s.srs.flags with closed := true } }

theorem srs_command {i : Instr} (hv : s.cfg.valid = true) (hc : i.frame = none) (hu : instrUnit i = some .srs)
    (h : exec i s = .next t) : SrsMove s t.srs := by
  have hfm := frameMax_of_valid hv
  cases i with
  | srsSend p =>
    dsimp only [exec] at h
    refine hostOperation_next (SrsMove s ·.srs) h (fun _ => .same) .fault .same fun hw hen => ?_
    split
    · exact .same
    · exact .send (encodeS (zext8 s.srs.nextToSend) p) hw hen (by simp only [encodeS_length]; omega)
  | srsRx d =>
    dsimp only [exec] at h
    refine eventOperation_next (SrsMove s ·.srs) h .fault .same fun hw _ => ?_
    dsimp only
    split
    · exact .acknowledge _ hw
    · exact .same
  | srsTmo k =>
    dsimp only [exec, execSrsTmo] at h
    split at h
    · refine eventOperation_next (SrsMove s ·.srs) h .fault .same fun _ hen => ?_
      rw [txSlot_srs]
      exact .restart k (Timer.armed_of_expired hen)
    · cases h
  | srsTick =>
    dsimp only [exec] at h
    exact eventOperation_next (SrsMove s ·.srs) h .fault .same fun _ _ => .tick
  | srsCansend =>
    dsimp only [exec] at h
    exact hostOperation_next (SrsMove s ·.srs) h (fun _ => .same) .fault .same fun _ _ => .same
  | srsStop =>
    exact stopUnit_next (u := .srs) (SrsMove s ·.srs) h (fun _ => .same) .fault .shut .shut
  | wireN | wireS | nak0 | ack | nak => cases hc
  | _ => cases hu

/-! ## `SRR` -/

/-- Everything a command of `SRR` can do to its registers: nothing; keep the payload of a number of the receive window
with its `ACK`, and drain the buffer when it was the number expected; write the status registers. -/
inductive SrrMove (s : State) : SrReceiver → Prop where
  | same : SrrMove s s.srr
  | buffer (q : Nat) (p : Bytes) :
      inWindow s.srr.oldestExpected (seqAdd s.srr.oldestExpected s.cfg.srW s.cfg.srMax) s.cfg.srMax q = true →
      p.length + 2 ≤ s.cfg.frameMax → q ≠ s.srr.oldestExpected →
      SrrMove s { s.srr with
        reorder := memWrite s.srr.reorder q (some p)
        acks := memWrite s.srr.acks q (some (ackFrame (BitVec.ofNat 8 q))) }
  | drain (p : Bytes) (n : Drained) : p.length + 2 ≤ s.cfg.frameMax →
      n = drain s.cfg.srMax s.cfg.srW (memWrite s.srr.reorder s.srr.oldestExpected (some p)) s.srr.oldestExpected →
      SrrMove s { s.srr with
        reorder := n.reorder
        acks := memWrite s.srr.acks s.srr.oldestExpected (some (ackFrame (BitVec.ofNat 8 s.srr.oldestExpected)))
        oldestExpected := n.oldestExpected }
  | status (f : Flags) : SrrMove s { s.srr with flags := f }

/-- The payload kept for a valid datagram that a port can carry (60_exceptions.md R362). -/
theorem textDec_payloadS_fits {c : TextDecSel} {d : Bytes} {n : Nat} (hd : d.length ≤ n) (hs : validS d = true) :
    (textDec c (payloadS d)).length + 2 ≤ n := by
  have h2 : 2 ≤ d.length := by
    simp only [validS, Bool.and_eq_true, decide_eq_true_eq] at hs
    exact hs.1
  have hle := textDec_length_le c (payloadS d)
  rw [payloadS_length] at hle
  omega

theorem srrAccept_move (d : Bytes) (hd : d.length ≤ s.cfg.frameMax) (hs : validS d = true)
    (hw : inWindow s.srr.oldestExpected (seqAdd s.srr.oldestExpected s.cfg.srW s.cfg.srMax) s.cfg.srMax
      (seqOf d).toNat = true) : SrrMove s (s.srrAccept d).srr := by
  have hp := textDec_payloadS_fits (c := s.cfg.textDec) hd hs
  have hack : ackFrame (seqOf d) = ackFrame (BitVec.ofNat 8 (seqOf d).toNat) := by
    rw [BitVec.ofNat_toNat, BitVec.setWidth_eq]
  unfold State.srrAccept
  dsimp only
  split
  · rename_i hq
    rw [deliverAll_eq, hack, hq]
    exact .drain _ _ hp rfl
  · rename_i hq
    rw [hack]
    exact .buffer _ _ hw hp hq

theorem srr_command {i : Instr} (hc : i.frame = none) (hu : instrUnit i = some .srr) (hr : i.inRange s.cfg = true)
    (h : exec i s = .next t) : SrrMove s t.srr := by
  cases i with
  | srrRx d =>
    have hd : d.length ≤ s.cfg.frameMax := by simpa [Instr.inRange, Instr.datagramLength] using hr
    dsimp only [exec] at h
    refine eventOperation_next (SrrMove s ·.srr) h (fun _ => .status _) .same fun _ _ => ?_
    dsimp only
    split
    · exact .same
    · rename_i hs
      split
      · exact srrAccept_move d hd (by simpa using hs) ‹_›
      split
      · rw [txSlot_srr]
        exact .same
      · exact .same
  | srrStop =>
    exact stopUnit_next (u := .srr) (SrrMove s ·.srr) h (fun _ => .same) (fun _ => .status _) (.status _) (.status _)
  | wireN | wireS | nak0 | ack | nak => cases hc
  | _ => cases hu

end Sys2Proof.Machine
end

section
/-! PROOFS. Distances modulo N, and the invariants of 10_state.md section 9 for Go-Back-N and Selective Repeat: O47, O52
and O53. -/

namespace Sys2Proof.Machine

variable {s t : State}

/-! ## Distances modulo `m` -/

/-- The number after one that is not the last before `base`. -/
theorem dist_seqInc {base k m : Nat} (hb : base < m) (hk : k < m) (h : (k + m - base) % m + 1 < m) :
    (seqInc k m + m - base) % m = (k + m - base) % m + 1 := by
  conv_lhs => rw [← add_dist base k m hb hk, seqInc_add]
  exact dist_add base _ m hb h

theorem dist_eq_iff {base j k m : Nat} (hb : base < m) (hj : j < m) (hk : k < m) :
    (j + m - base) % m = (k + m - base) % m ↔ j = k := by
  constructor
  · intro h
    rw [← add_dist base j m hb hj, h, add_dist base k m hb hk]
  · rintro rfl
    rfl

theorem dist_self (base m : Nat) : (base + m - base) % m = 0 := by
  rw [Nat.add_sub_cancel_left, Nat.mod_self]

/-- From a base moved on by `j`, a number at distance `d` or more is nearer by `j`. -/
theorem dist_moved_of_le {base j k m : Nat} (hb : base < m) (hk : k < m) (h : j ≤ (k + m - base) % m) :
    (k + m - (base + j) % m) % m = (k + m - base) % m - j := by
  have hd : (k + m - base) % m < m := Nat.mod_lt _ (by omega)
  have hkj : k = ((base + j) % m + ((k + m - base) % m - j)) % m := by
    rw [Nat.mod_add_mod, Nat.add_assoc, Nat.add_sub_of_le h, add_dist base k m hb hk]
  conv_lhs => rw [hkj]
  exact dist_add _ _ m (Nat.mod_lt _ (by omega)) (by omega)

/-- From a base moved on by `j`, a number passed over lies around the whole ring. -/
theorem dist_moved_of_lt {base j k m : Nat} (hb : base < m) (hj : j < m) (hk : k < m) (h : (k + m - base) % m < j) :
    (k + m - (base + j) % m) % m = (k + m - base) % m + m - j := by
  have hkj : k = ((base + j) % m + ((k + m - base) % m + m - j)) % m := by
    rw [Nat.mod_add_mod, show base + j + ((k + m - base) % m + m - j) = base + (k + m - base) % m + m by omega,
      Nat.add_mod_right, add_dist base k m hb hk]
  conv_lhs => rw [hkj]
  exact dist_add _ _ m (Nat.mod_lt _ (by omega)) (by omega)

/-! ## `GBNS` (10_state.md R43) -/

theorem gbnsInv_congr (hu : SameUnit .gbns s t) (hcfg : t.cfg = s.cfg) (h : GbnsInv s) : GbnsInv t := by
  have hg : t.gbns = s.gbns := hu
  unfold GbnsInv gbnInFlight State.wf at *
  rwa [hg, hcfg]

theorem gbnsInv_of_reset (hg : s.gbns = State.reset.gbns) (hv : s.cfg.valid = true) : GbnsInv s := by
  obtain ⟨-, hm⟩ := gbnW_of_valid hv
  simp [GbnsInv, gbnInFlight, State.wf, hg, State.reset, memRead_nil]
  omega

theorem gbn_legal (hw : s.wf .gbns = true) :
    s.gbns.oldestUnacked < s.cfg.gbnMax ∧ s.gbns.nextToSend < s.cfg.gbnMax := by
  simpa [State.wf] using hw

/-- There is room exactly while fewer than `GBN_W` frames are in flight (44_go_back_n.md R261). -/
theorem gbnCanSend_iff (hv : s.cfg.valid = true) (hw : s.wf .gbns = true) :
    gbnCanSend s = true ↔ gbnInFlight s < s.cfg.gbnW := by
  obtain ⟨h0, hm⟩ := gbnW_of_valid hv
  obtain ⟨ho, hn⟩ := gbn_legal hw
  rw [gbnCanSend, inWindow_from _ _ _ _ ho h0 hm]
  exact and_iff_right hn

theorem gbnInFlight_eq_zero_iff (hw : s.wf .gbns = true) :
    gbnInFlight s = 0 ↔ s.gbns.oldestUnacked = s.gbns.nextToSend := by
  obtain ⟨ho, hn⟩ := gbn_legal hw
  rw [gbnInFlight, ← dist_self s.gbns.oldestUnacked s.cfg.gbnMax, dist_eq_iff ho hn ho, eq_comm]

/-- A move that writes the timer and the status registers alone. -/
theorem gbnsInv_status {x : Timer} {f : Flags} (h : GbnsInv s)
    (hx : x.armed = true ↔ 0 < gbnInFlight s ∧ f.closed = false ∧ f.fault = false) :
    GbnsInv { s with gbns := { s.gbns with timer := x, flags := f } } :=
  ⟨h.1, h.2.1, h.2.2.1, hx⟩

/-- `SEND` fills the slot after the ones in flight. -/
theorem gbnsInv_send (hv : s.cfg.valid = true) (hwork : Working .gbns s) (hr : gbnCanSend s = true) (f : Bytes)
    (h : GbnsInv s) : GbnsInv { s with gbns := { s.gbns with
      frames := memWrite s.gbns.frames s.gbns.nextToSend (some f)
      nextToSend := seqInc s.gbns.nextToSend s.cfg.gbnMax
      timer := if s.gbns.oldestUnacked = s.gbns.nextToSend then timerStart s.cfg.tGbn else s.gbns.timer } } := by
  obtain ⟨hwf, -, hslots, htimer⟩ := h
  obtain ⟨hfault, hclosed, -⟩ := hwork
  obtain ⟨ho, hn⟩ := gbn_legal hwf
  obtain ⟨-, hm⟩ := gbnW_of_valid hv
  have hroom := (gbnCanSend_iff hv hwf).1 hr
  have hzero := gbnInFlight_eq_zero_iff hwf
  have hnext : (seqInc s.gbns.nextToSend s.cfg.gbnMax + s.cfg.gbnMax - s.gbns.oldestUnacked) % s.cfg.gbnMax =
      gbnInFlight s + 1 := dist_seqInc ho hn (show gbnInFlight s + 1 < _ by omega)
  have hopen : s.gbns.flags.closed = false ∧ s.gbns.flags.fault = false := ⟨hclosed, hfault⟩
  refine ⟨?_, ?_, fun k hk => ?_, ?_⟩
  · simp [State.wf, ho, seqInc_lt _ _ (Nat.zero_lt_of_lt ho)]
  · show _ % _ ≤ _
    dsimp only
    omega
  · have hd := dist_eq_iff ho hk hn
    unfold gbnInFlight at hslots hnext ⊢
    dsimp only
    rw [hnext, memRead_memWrite]
    split
    · simp only [Option.isSome_some, true_iff]
      have := hd.2 ‹_›
      omega
    · rw [hslots k hk]
      have := mt hd.1 ‹_›
      omega
  · unfold gbnInFlight at hnext ⊢
    dsimp only
    rw [hnext]
    split
    · simp [timerStart, hopen]
    · rename_i hne
      have : 0 < gbnInFlight s := Nat.pos_of_ne_zero (mt hzero.1 hne)
      simp [htimer, hopen, this]

/-- The acknowledgment of `q` empties the slots from the oldest through `q` and moves the base past them. -/
theorem gbnsInv_acknowledge (hv : s.cfg.valid = true) (hwork : Working .gbns s) {q : Nat} (hq : q < s.cfg.gbnMax)
    (hs : (memRead s.gbns.frames q).isSome = true) (h : GbnsInv s) :
    GbnsInv { s with gbns := s.gbns.acknowledge q s.cfg.gbnMax s.cfg.tGbn } := by
  obtain ⟨hwf, hle, hslots, -⟩ := h
  obtain ⟨hfault, hclosed, -⟩ := hwork
  obtain ⟨ho, hn⟩ := gbn_legal hwf
  obtain ⟨-, hm⟩ := gbnW_of_valid hv
  have hqn := (hslots q hq).1 hs
  have hbase : seqInc q s.cfg.gbnMax =
      (s.gbns.oldestUnacked + ((q + s.cfg.gbnMax - s.gbns.oldestUnacked) % s.cfg.gbnMax + 1)) % s.cfg.gbnMax := by
    rw [← seqInc_add, add_dist _ _ _ ho hq]
  have hlt : seqInc q s.cfg.gbnMax < s.cfg.gbnMax := seqInc_lt _ _ (Nat.zero_lt_of_lt ho)
  have hleft : (s.gbns.nextToSend + s.cfg.gbnMax - seqInc q s.cfg.gbnMax) % s.cfg.gbnMax =
      gbnInFlight s - ((q + s.cfg.gbnMax - s.gbns.oldestUnacked) % s.cfg.gbnMax + 1) := by
    rw [hbase]
    exact dist_moved_of_le ho hn hqn
  have hopen : s.gbns.flags.closed = false ∧ s.gbns.flags.fault = false := ⟨hclosed, hfault⟩
  refine ⟨?_, ?_, fun k hk => ?_, ?_⟩
  · simp [State.wf, GbnSender.acknowledge, hlt, hn]
  · show _ % _ ≤ _
    dsimp only [GbnSender.acknowledge]
    omega
  · unfold gbnInFlight at hslots hqn hleft hle ⊢
    dsimp only [GbnSender.acknowledge]
    rw [hleft, memRead_clearThrough _ _ _ _ _ ho hq]
    by_cases hkq : (k + s.cfg.gbnMax - s.gbns.oldestUnacked) % s.cfg.gbnMax ≤
      (q + s.cfg.gbnMax - s.gbns.oldestUnacked) % s.cfg.gbnMax
    · rw [if_pos ⟨hk, hkq⟩, hbase, dist_moved_of_lt ho (by omega) hk (by omega)]
      simp only [Option.isSome_none, Bool.false_eq_true, false_iff]
      omega
    · rw [if_neg (fun hc => hkq hc.2), hslots k hk, hbase, dist_moved_of_le ho hk (by omega)]
      omega
  · have hzero : seqInc q s.cfg.gbnMax = s.gbns.nextToSend ↔
        (s.gbns.nextToSend + s.cfg.gbnMax - seqInc q s.cfg.gbnMax) % s.cfg.gbnMax = 0 := by
      rw [← dist_self (seqInc q s.cfg.gbnMax) s.cfg.gbnMax, dist_eq_iff hlt hn hlt, eq_comm]
    unfold gbnInFlight
    dsimp only [GbnSender.acknowledge]
    split
    · simp [timerCancel, hzero.1 ‹_›]
    · have := mt hzero.2 ‹_›
      simp [timerStart, hopen]
      omega

theorem gbnsInv_of_move (hv : s.cfg.valid = true) (h : GbnsInv s) {g : GbnSender} (hm : GbnsMove s g) :
    GbnsInv { s with gbns := g } := by
  have ⟨hwf, _, _, htimer⟩ := h
  cases hm with
  | same => exact h
  | send f hw hr _ => exact gbnsInv_send hv hw hr f h
  | acknowledge q hw hq hs => exact gbnsInv_acknowledge hv hw hq hs h
  | restart ha => exact gbnsInv_status h ((iff_of_true rfl ha).trans htimer)
  | tick => exact gbnsInv_status h (by rw [Timer.tick_armed]; exact htimer)
  | fault hbad => exact absurd hwf (by simp [hbad])
  | shut => exact gbnsInv_status h (by simp [timerCancel])

/-- Settles O47: every move of `GBNS` keeps what the frames in flight determine. -/
theorem gbnsInvariantKept : Obligations.GbnsInvariantKept := by
  refine ⟨fun s hv ⟨_, _, _, _, _, _, _, hg, _⟩ => gbnsInv_of_reset hg hv, ?_⟩
  refine step_keeps_unit .gbns GbnsInv (fun _ _ => gbnsInv_congr) (fun s hv => gbnsInv_of_reset rfl hv) ?_
  intro i s t hc hu _ hv h he
  have hcfg : t.cfg = s.cfg := exec_cfg he
  exact gbnsInv_congr (s := { s with gbns := t.gbns }) rfl hcfg (gbnsInv_of_move hv h (gbns_command hv hc hu he))

/-! ## `SRS` (10_state.md R44) -/

theorem srsInv_congr (hu : SameUnit .srs s t) (hcfg : t.cfg = s.cfg) (h : SrsInv s) : SrsInv t := by
  have hg : t.srs = s.srs := hu
  unfold SrsInv srInFlight State.wf at *
  rwa [hg, hcfg]

theorem srsInv_of_reset (hg : s.srs = State.reset.srs) (hv : s.cfg.valid = true) : SrsInv s := by
  obtain ⟨-, hm⟩ := srW_of_valid hv
  simp [SrsInv, srInFlight, State.wf, hg, State.reset, memRead_nil, timerAt_nil]
  omega

theorem srs_legal (hw : s.wf .srs = true) :
    s.srs.oldestUnacked < s.cfg.srMax ∧ s.srs.nextToSend < s.cfg.srMax := by
  simpa [State.wf] using hw

/-- There is room exactly while fewer than `SR_W` numbers are in flight (45_selective_repeat.md R291). -/
theorem srCanSend_iff (hv : s.cfg.valid = true) (hw : s.wf .srs = true) :
    srCanSend s = true ↔ srInFlight s < s.cfg.srW := by
  obtain ⟨h0, hm⟩ := srW_of_valid hv
  obtain ⟨ho, hn⟩ := srs_legal hw
  rw [srCanSend, inWindow_from _ _ _ _ ho h0 hm]
  exact and_iff_right hn

theorem srInFlight_eq_zero_iff (hw : s.wf .srs = true) :
    srInFlight s = 0 ↔ s.srs.oldestUnacked = s.srs.nextToSend := by
  obtain ⟨ho, hn⟩ := srs_legal hw
  rw [srInFlight, ← dist_self s.srs.oldestUnacked s.cfg.srMax, dist_eq_iff ho hn ho, eq_comm]

/-- A move that writes the timers and the status registers alone. -/
theorem srsInv_status {x : TimerArray} {f : Flags} (h : SrsInv s)
    (hx : f.closed = false → f.fault = false → ∀ k, k < s.cfg.srMax →
      ((timerAt x k).armed = true ↔ (memRead s.srs.frames k).isSome = true)) :
    SrsInv { s with srs := { s.srs with timers := x, flags := f } } := by
  obtain ⟨hwf, hle, hslots, hold, -⟩ := h
  exact ⟨hwf, hle, hslots, hold, hx⟩

/-- `SEND` fills the slot after the numbers in flight and starts its timer. -/
theorem srsInv_send (hv : s.cfg.valid = true) (hwork : Working .srs s) (hr : srCanSend s = true) (f : Bytes)
    (h : SrsInv s) : SrsInv { s with srs := { s.srs with
      frames := memWrite s.srs.frames s.srs.nextToSend (some f)
      timers := setTimerAt s.srs.timers s.srs.nextToSend (timerStart s.cfg.tSr)
      nextToSend := seqInc s.srs.nextToSend s.cfg.srMax } } := by
  obtain ⟨hwf, -, hslots, hold, htimers⟩ := h
  obtain ⟨hfault, hclosed, -⟩ := hwork
  obtain ⟨ho, hn⟩ := srs_legal hwf
  obtain ⟨-, hm⟩ := srW_of_valid hv
  have hroom := (srCanSend_iff hv hwf).1 hr
  have hzero := srInFlight_eq_zero_iff hwf
  have hnext : (seqInc s.srs.nextToSend s.cfg.srMax + s.cfg.srMax - s.srs.oldestUnacked) % s.cfg.srMax =
      srInFlight s + 1 := dist_seqInc ho hn (show srInFlight s + 1 < _ by omega)
  refine ⟨?_, ?_, fun k hk => ?_, fun _ => ?_, fun _ _ k hk => ?_⟩
  · simp [State.wf, ho, seqInc_lt _ _ (Nat.zero_lt_of_lt ho)]
  · show _ % _ ≤ _
    dsimp only
    omega
  · unfold srInFlight at hslots hnext ⊢
    dsimp only
    rw [hnext, memRead_memWrite]
    split
    · have := (dist_eq_iff ho hk hn).2 ‹_›
      omega
    · exact fun hs => Nat.lt_succ_of_lt (hslots k hk hs)
  · dsimp only
    rw [memRead_memWrite]
    split
    · rfl
    · exact hold (Nat.pos_of_ne_zero (mt hzero.1 ‹_›))
  · dsimp only
    rw [timerAt_setTimerAt, memRead_memWrite]
    split
    · simp [timerStart]
    · exact htimers hclosed hfault k hk

/-- The slot and the timer of an acknowledged number agree, and so do all others. -/
theorem timer_agrees_of_clear {a : SlotArray} {x : TimerArray} {k : Nat} (q : Nat)
    (h : (timerAt x k).armed = true ↔ (memRead a k).isSome = true) :
    (timerAt (setTimerAt x q timerCancel) k).armed = true ↔ (memRead (memWrite a q none) k).isSome = true := by
  rw [timerAt_setTimerAt, memRead_memWrite]
  split
  · simp [timerCancel]
  · exact h

/-- The acknowledgment of `q` empties its slot; when it was the oldest, the base slides past empty slots. -/
theorem srsInv_acknowledge (hwork : Working .srs s) (q : Nat) (h : SrsInv s) :
    SrsInv { s with srs := s.srs.acknowledge q s.cfg.srMax } := by
  obtain ⟨hwf, hle, hslots, hold, htimers⟩ := h
  obtain ⟨hfault, hclosed, -⟩ := hwork
  obtain ⟨ho, hn⟩ := srs_legal hwf
  have hclear : ∀ k, k < s.cfg.srMax → (memRead (memWrite s.srs.frames q none) k).isSome = true →
      (k + s.cfg.srMax - s.srs.oldestUnacked) % s.cfg.srMax < srInFlight s := by
    intro k hk hs
    rw [memRead_memWrite] at hs
    split at hs
    · cases hs
    · exact hslots k hk hs
  have htimers' := fun k hk => timer_agrees_of_clear q (htimers hclosed hfault k hk)
  by_cases hq : q = s.srs.oldestUnacked
  · obtain ⟨j, hj, hslide, hempty, hstop⟩ :=
      slideBase_spec s.cfg.srMax s.srs.oldestUnacked s.srs.nextToSend (memWrite s.srs.frames q none) ho hn
    have hleft := dist_moved_of_le ho hn hj
    have hlt : (s.srs.oldestUnacked + j) % s.cfg.srMax < s.cfg.srMax := Nat.mod_lt _ (Nat.zero_lt_of_lt ho)
    unfold SrsInv srInFlight at *
    simp only [SrSender.acknowledge, if_pos hq, hslide, State.wf, hleft]
    refine ⟨by simp [hlt, hn], by omega, fun k hk hs => ?_, fun hpos => ?_, fun _ _ => htimers'⟩
    · have hd := hclear k hk hs
      have hjk : j ≤ (k + s.cfg.srMax - s.srs.oldestUnacked) % s.cfg.srMax := by
        by_contra hlt
        have := hempty _ (Nat.lt_of_not_le hlt)
        rw [add_dist _ _ _ ho hk] at this
        simp [this] at hs
      rw [dist_moved_of_le ho hk hjk]
      omega
    · exact hstop.resolve_left (by omega)
  · unfold SrsInv srInFlight at *
    simp only [SrSender.acknowledge, if_neg hq]
    refine ⟨hwf, hle, hclear, fun hpos => ?_, fun _ _ => htimers'⟩
    rw [memRead_memWrite, if_neg (Ne.symm hq)]
    exact hold hpos

theorem srsInv_of_move (hv : s.cfg.valid = true) (h : SrsInv s) {g : SrSender} (hm : SrsMove s g) :
    SrsInv { s with srs := g } := by
  have ⟨hwf, _, _, _, htimers⟩ := h
  cases hm with
  | same => exact h
  | send f hw hr _ => exact srsInv_send hv hw hr f h
  | acknowledge q hw => exact srsInv_acknowledge hw q h
  | restart j ha =>
    refine srsInv_status h fun hc hf k hk => ?_
    rw [timerAt_setTimerAt, ← htimers hc hf k hk]
    split
    · subst k
      exact iff_of_true rfl ha
    · rfl
  | tick =>
    refine srsInv_status h fun hc hf k hk => ?_
    rw [timerAt_tickAll, if_pos hk, Timer.tick_armed]
    exact htimers hc hf k hk
  | fault hbad => exact absurd hwf (by simp [hbad])
  | shut => exact srsInv_status h (fun hc => by simp at hc)

/-- Settles O52: every move of `SRS` keeps its filled slots inside the window and its timers with them. -/
theorem srsInvariantKept : Obligations.SrsInvariantKept := by
  refine ⟨fun s hv ⟨_, _, _, _, _, _, _, _, _, hg, _⟩ => srsInv_of_reset hg hv, ?_⟩
  refine step_keeps_unit .srs SrsInv (fun _ _ => srsInv_congr) (fun s hv => srsInv_of_reset rfl hv) ?_
  intro i s t hc hu _ hv h he
  have hcfg : t.cfg = s.cfg := exec_cfg he
  exact srsInv_congr (s := { s with srs := t.srs }) rfl hcfg (srsInv_of_move hv h (srs_command hv hc hu he))

/-! ## `SRR` (10_state.md R45) -/

theorem srrInv_congr (hu : SameUnit .srr s t) (hcfg : t.cfg = s.cfg) (h : SrrInv s) : SrrInv t := by
  have hg : t.srr = s.srr := hu
  unfold SrrInv State.wf at *
  rwa [hg, hcfg]

theorem srrInv_of_reset (hg : s.srr = State.reset.srr) (hv : s.cfg.valid = true) : SrrInv s := by
  obtain ⟨-, hm⟩ := srW_of_valid hv
  simp [SrrInv, State.wf, hg, State.reset, memRead_nil]
  omega

theorem srr_legal (hw : s.wf .srr = true) : s.srr.oldestExpected < s.cfg.srMax := by
  simpa [State.wf] using hw

/-- Every stored acknowledgment is the `ACK` of its slot (10_state.md R45 (c)). -/
def AcksRight (m : Nat) (acks : SlotArray) : Prop :=
  ∀ k, k < m → ∀ a, memRead acks k = some a → a = ackFrame (BitVec.ofNat 8 k)

theorem acksRight_memWrite {m : Nat} {acks : SlotArray} (q : Nat) (h : AcksRight m acks) :
    AcksRight m (memWrite acks q (some (ackFrame (BitVec.ofNat 8 q)))) := by
  intro k hk a ha
  rw [memRead_memWrite] at ha
  split at ha
  · subst k
    exact (Option.some.inj ha).symm
  · exact h k hk a ha

/-- A payload of the receive window that is not the one expected is kept, and the slot expected stays empty. -/
theorem srrInv_buffer (hv : s.cfg.valid = true) {q : Nat} (p : Bytes)
    (hq : inWindow s.srr.oldestExpected (seqAdd s.srr.oldestExpected s.cfg.srW s.cfg.srMax) s.cfg.srMax q = true)
    (hne : q ≠ s.srr.oldestExpected) (h : SrrInv s) : SrrInv { s with srr := { s.srr with
      reorder := memWrite s.srr.reorder q (some p)
      acks := memWrite s.srr.acks q (some (ackFrame (BitVec.ofNat 8 q))) } } := by
  obtain ⟨hwf, hwin, hempty, hacks⟩ := h
  obtain ⟨h0, hm⟩ := srW_of_valid hv
  obtain ⟨-, hqw⟩ := (inWindow_from _ _ _ _ (srr_legal hwf) h0 hm).1 hq
  refine ⟨hwf, fun k hk => ?_, ?_, acksRight_memWrite q hacks⟩
  · dsimp only
    rw [memRead_memWrite]
    split
    · subst k
      exact fun _ => hqw
    · exact hwin k hk
  · dsimp only
    rw [memRead_memWrite, if_neg hne.symm]
    exact hempty

/-- The payload expected is kept and the buffer drained: what is left lies in the window of the new base, whose slot is
empty (45_selective_repeat.md R295, D25). -/
theorem srrInv_drain (hv : s.cfg.valid = true) (p : Bytes) (n : Drained)
    (hn : n = drain s.cfg.srMax s.cfg.srW (memWrite s.srr.reorder s.srr.oldestExpected (some p)) s.srr.oldestExpected)
    (h : SrrInv s) : SrrInv { s with srr := { s.srr with
      reorder := n.reorder
      acks := memWrite s.srr.acks s.srr.oldestExpected (some (ackFrame (BitVec.ofNat 8 s.srr.oldestExpected)))
      oldestExpected := n.oldestExpected } } := by
  obtain ⟨hwf, hwin, -, hacks⟩ := h
  obtain ⟨h0, hm⟩ := srW_of_valid hv
  have ho := srr_legal hwf
  obtain ⟨j, hj, hbase, -, -, hread, hstop⟩ :=
    drain_spec s.cfg.srMax s.srr.oldestExpected s.cfg.srW (memWrite s.srr.reorder s.srr.oldestExpected (some p)) ho hm
  rw [← hn] at hbase hread
  have hwin' : ∀ k, k < s.cfg.srMax →
      (memRead (memWrite s.srr.reorder s.srr.oldestExpected (some p)) k).isSome = true →
      (k + s.cfg.srMax - s.srr.oldestExpected) % s.cfg.srMax < s.cfg.srW := by
    intro k hk
    rw [memRead_memWrite]
    split
    · subst k
      rw [dist_self]
      exact fun _ => h0
    · exact hwin k hk
  have hlt : (s.srr.oldestExpected + j) % s.cfg.srMax < s.cfg.srMax := Nat.mod_lt _ (Nat.zero_lt_of_lt ho)
  have hdist : ((s.srr.oldestExpected + j) % s.cfg.srMax + s.cfg.srMax - s.srr.oldestExpected) % s.cfg.srMax = j :=
    dist_add _ _ _ ho (by omega)
  unfold SrrInv
  simp only [State.wf, hbase]
  refine ⟨decide_eq_true hlt, fun k hk hs => ?_, ?_, acksRight_memWrite _ hacks⟩
  · rw [hread] at hs
    split at hs
    · cases hs
    · have := hwin' k hk hs
      rw [dist_moved_of_le ho hk (by omega)]
      omega
  · rw [hread, hdist, if_neg (fun hc => Nat.lt_irrefl _ hc.2)]
    rcases hstop with rfl | hnone
    · by_contra hne
      have := hwin' _ hlt (Option.isSome_iff_ne_none.2 hne)
      omega
    · exact hnone

theorem srrInv_of_move (hv : s.cfg.valid = true) (h : SrrInv s) {r : SrReceiver} (hm : SrrMove s r) :
    SrrInv { s with srr := r } := by
  cases hm with
  | same => exact h
  | buffer q p hq _ hne => exact srrInv_buffer hv p hq hne h
  | drain p n _ hn => exact srrInv_drain hv p n hn h
  | status f => exact h

/-- Settles O53: every move of `SRR` keeps its buffer inside the receive window and its slot expected next empty. -/
theorem srrInvariantKept : Obligations.SrrInvariantKept := by
  refine ⟨fun s hv ⟨_, _, _, _, _, _, _, _, _, _, hg⟩ => srrInv_of_reset hg hv, ?_⟩
  refine step_keeps_unit .srr SrrInv (fun _ _ => srrInv_congr) (fun s hv => srrInv_of_reset rfl hv) ?_
  intro i s t hc hu hr hv h he
  have hcfg : t.cfg = s.cfg := exec_cfg he
  exact srrInv_congr (s := { s with srr := t.srr }) rfl hcfg (srrInv_of_move hv h (srr_command hc hu hr he))

end Sys2Proof.Machine
end

section
/-! PROOFS. The stop-and-wait invariant of 10_state.md R46 and the sizes of what registers and slots hold: O39 and O57. -/

namespace Sys2Proof.Machine

variable {s t : State}

/-! ## What every move of a stop-and-wait sender keeps, every step keeps -/

section StepKeeps

-- The registers the three have in common are the same after reset (10_state.md R47).
variable (P : Cfg → SenderRegs → Prop) (reset : ∀ c, P c State.reset.swns.regs)

include reset in
theorem swns_step_keeps (move : ∀ c a b, SenderMove c.frameMax c.tSwn a b → P c a → P c b) (hv : s.cfg.valid = true)
    (h : P s.cfg s.swns.regs) (hs : step s = .next t) : P t.cfg t.swns.regs := by
  refine step_keeps_unit .swns (fun s => P s.cfg s.swns.regs) ?_ (fun s _ => reset s.cfg) ?_ s t hv h hs
  · intro s t hu hcfg h
    rwa [show t.swns = s.swns from hu, hcfg]
  · intro i s t hc hu _ hv h he
    rw [exec_cfg he]
    exact move _ _ _ (swns_command hv hc hu he) h

include reset in
theorem abps_step_keeps (move : ∀ c a b, SenderMove c.frameMax c.tAbp a b → P c a → P c b) (hv : s.cfg.valid = true)
    (h : P s.cfg s.abps.regs) (hs : step s = .next t) : P t.cfg t.abps.regs := by
  refine step_keeps_unit .abps (fun s => P s.cfg s.abps.regs) ?_ (fun s _ => reset s.cfg) ?_ s t hv h hs
  · intro s t hu hcfg h
    rwa [show t.abps = s.abps from hu, hcfg]
  · intro i s t hc hu _ hv h he
    rw [exec_cfg he]
    exact move _ _ _ (abps_command hv hc hu he) h

include reset in
theorem pnas_step_keeps (move : ∀ c a b, SenderMove c.frameMax c.tPna a b → P c a → P c b) (hv : s.cfg.valid = true)
    (h : P s.cfg s.pnas.regs) (hs : step s = .next t) : P t.cfg t.pnas.regs := by
  refine step_keeps_unit .pnas (fun s => P s.cfg s.pnas.regs) ?_ (fun s _ => reset s.cfg) ?_ s t hv h hs
  · intro s t hu hcfg h
    rwa [show t.pnas = s.pnas from hu, hcfg]
  · intro i s t hc hu _ hv h he
    rw [exec_cfg he]
    exact move _ _ _ (pnas_command hv hc hu he) h

end StepKeeps

/-! ## Stop-and-wait (10_state.md R46) -/

theorem waitSend_ne_waitAck : waitSend ≠ waitAck := by decide

/-- `AwaitInv` of the registers a stop-and-wait sender has. -/
def SenderRegs.Await (a : SenderRegs) : Prop :=
  AwaitInv a.state a.timer.armed a.txbuf a.flags

/-- Every move of a stop-and-wait sender keeps R46. -/
theorem SenderMove.await {fm T : Nat} {a b : SenderRegs} (hm : SenderMove fm T a b) (h : a.Await) : b.Await := by
  have ⟨harmed, hbuf⟩ := h
  cases hm with
  | same => exact h
  | load f hf hc _ => exact ⟨iff_of_true rfl ⟨rfl, hc, hf⟩, fun _ => rfl⟩
  | done => exact ⟨by simp [timerCancel, waitSend_ne_waitAck], fun hw => absurd hw waitSend_ne_waitAck⟩
  | restart hf hc hwait =>
    have hstate : a.state = waitAck := hwait.elim id fun hx => (harmed.1 hx).1
    exact ⟨iff_of_true rfl ⟨hstate, hc, hf⟩, hbuf⟩
  | tick => exact ⟨by rw [Timer.tick_armed]; exact harmed, hbuf⟩
  | fault => exact ⟨by simp [timerCancel], hbuf⟩
  | shut => exact ⟨by simp [timerCancel], hbuf⟩

theorem await_of_reset : State.reset.swns.regs.Await := by
  simp [SenderRegs.Await, AwaitInv, NakSender.regs, State.reset, waitSend_ne_waitAck]

/-- `GBNR` expects a legal number, and what it keeps is the `ACK` of the number before it. -/
def GbnrInv (s : State) : Prop :=
  s.gbnr.expected < s.cfg.gbnMax ∧ ∀ a, s.gbnr.lastAck = some a →
    a = ackFrame (BitVec.ofNat 8 ((s.gbnr.expected + s.cfg.gbnMax - 1) % s.cfg.gbnMax))

theorem stopAndWaitInv_iff : StopAndWaitInv s ↔
    s.swns.regs.Await ∧ s.abps.regs.Await ∧ s.pnas.regs.Await ∧ GbnrInv s := Iff.rfl

/-- The number before the next one. -/
theorem seqInc_pred {x m : Nat} (hx : x < m) : (seqInc x m + m - 1) % m = x := by
  unfold seqInc
  rw [mod_of_lt_two_mul (x + 1) m (by omega)]
  split <;> rw [mod_of_lt_two_mul _ m (by omega)] <;> split <;> omega

theorem gbnrInv_command {i : Instr} (hc : i.frame = none) (hu : instrUnit i = some .gbnr) (h : GbnrInv s)
    (he : exec i s = .next t) : GbnrInv t := by
  have ⟨hlt, _⟩ := h
  cases i with
  | gbnrRx d =>
    dsimp only [exec] at he
    refine eventOperation_next GbnrInv he (fun _ => h) h fun _ _ => ?_
    split
    · refine ⟨seqInc_lt _ _ (Nat.zero_lt_of_lt hlt), fun a ha => ?_⟩
      obtain rfl := Option.some.inj ha
      exact congrArg (fun n => ackFrame (zext8 n)) (seqInc_pred hlt).symm
    · unfold GbnrInv
      rw [txSlot_gbnr, txSlot_cfg]
      exact h
  | gbnrStop => exact stopUnit_next (u := .gbnr) GbnrInv he (fun _ => h) (fun _ => h) h h
  | wireN | wireS | nak0 | ack | nak => cases hc
  | _ => cases hu

theorem gbnrInv_congr (hu : SameUnit .gbnr s t) (hcfg : t.cfg = s.cfg) (h : GbnrInv s) : GbnrInv t := by
  have hg : t.gbnr = s.gbnr := hu
  unfold GbnrInv at *
  rwa [hg, hcfg]

theorem gbnrInv_of_reset (hg : s.gbnr = State.reset.gbnr) (hv : s.cfg.valid = true) : GbnrInv s := by
  obtain ⟨-, hm⟩ := gbnW_of_valid hv
  simp [GbnrInv, hg, State.reset]
  omega

theorem gbnrInv_step (hv : s.cfg.valid = true) (h : GbnrInv s) (hs : step s = .next t) : GbnrInv t :=
  step_keeps_unit .gbnr GbnrInv (fun _ _ => gbnrInv_congr) (fun _ hv => gbnrInv_of_reset rfl hv)
    (fun _ _ _ hc hu _ _ h he => gbnrInv_command hc hu h he) s t hv h hs

/-- Settles O39: every move of a stop-and-wait sender and every reception of `GBNR` keeps R46. -/
theorem stopAndWaitInvariantKept : Obligations.StopAndWaitInvariantKept := by
  constructor
  · rintro s hv ⟨-, hswns, -, habps, -, hpnas, -, -, hgbnr, -⟩
    rw [stopAndWaitInv_iff, hswns, habps, hpnas]
    exact ⟨await_of_reset, await_of_reset, await_of_reset, gbnrInv_of_reset hgbnr hv⟩
  · intro s t hv h hs
    obtain ⟨hswns, habps, hpnas, hgbnr⟩ := stopAndWaitInv_iff.1 h
    refine stopAndWaitInv_iff.2 ⟨?_, ?_, ?_, ?_⟩
    · exact swns_step_keeps (fun _ a => a.Await) (fun _ => await_of_reset) (fun _ _ _ => SenderMove.await) hv hswns hs
    · exact abps_step_keeps (fun _ a => a.Await) (fun _ => await_of_reset) (fun _ _ _ => SenderMove.await) hv habps hs
    · exact pnas_step_keeps (fun _ a => a.Await) (fun _ => await_of_reset) (fun _ _ _ => SenderMove.await) hv hpnas hs
    · exact gbnrInv_step hv hgbnr hs

/-! ## Sizes (10_state.md R28 to R30, R41) -/

/-- Every slot of the array holds at most `n` bytes. -/
def SlotsFit (n : Nat) (a : SlotArray) : Prop :=
  ∀ k f, memRead a k = some f → f.length ≤ n

theorem slotsFit_nil (n : Nat) : SlotsFit n [] := fun _ _ hf => nomatch hf

theorem slotsFit_memWrite {n : Nat} {a : SlotArray} {v : Option Bytes} (q : Nat) (h : SlotsFit n a)
    (hv : ∀ f, v = some f → f.length ≤ n) : SlotsFit n (memWrite a q v) := by
  intro k f hf
  rw [memRead_memWrite] at hf
  split at hf
  · exact hv f hf
  · exact h k f hf

theorem slotsFit_clear {n : Nat} {a : SlotArray} (q : Nat) (h : SlotsFit n a) : SlotsFit n (memWrite a q none) :=
  slotsFit_memWrite q h (fun _ hf => nomatch hf)

theorem slotsFit_clearThrough {n m q : Nat} (fuel : Nat) :
    ∀ (i : Nat) {a : SlotArray}, SlotsFit n a → SlotsFit n (clearThrough m q fuel i a) := by
  induction fuel with
  | zero => exact fun _ _ h => h
  | succ fuel ih =>
    intro i a h
    simp only [clearThrough]
    split
    · exact slotsFit_clear i h
    · exact ih _ (slotsFit_clear i h)

theorem slotsFit_drain {n m : Nat} (fuel : Nat) :
    ∀ (i : Nat) {a : SlotArray}, SlotsFit n a → SlotsFit n (drain m fuel a i).reorder := by
  induction fuel with
  | zero => exact fun _ _ h => h
  | succ fuel ih =>
    intro i a h
    simp only [drain]
    split
    · exact h
    · exact ih _ (slotsFit_clear i h)

/-- Every timer of the array counts at most `T`. -/
def TimersFit (T : Nat) (a : TimerArray) : Prop :=
  ∀ k, (timerAt a k).cnt ≤ T

theorem timersFit_nil (T : Nat) : TimersFit T [] := fun k => by simp [timerAt_nil]

theorem timersFit_setTimerAt {T : Nat} {a : TimerArray} (q : Nat) (x : Timer) (h : TimersFit T a) (hx : x.cnt ≤ T) :
    TimersFit T (setTimerAt a q x) := by
  intro k
  rw [timerAt_setTimerAt]
  split
  · exact hx
  · exact h k

theorem timersFit_tickAll {T : Nat} {a : TimerArray} (m : Nat) (h : TimersFit T a) : TimersFit T (tickAll m a) := by
  intro k
  rw [timerAt_tickAll]
  split
  · exact (Timer.tick_cnt_le _).trans (h k)
  · exact h k

/-- The registers of a stop-and-wait sender fit the longest frame and its timeout. -/
def SenderRegs.Fits (fm T : Nat) (a : SenderRegs) : Prop :=
  (∀ f, a.txbuf = some f → f.length ≤ fm) ∧ a.timer.cnt ≤ T

/-- The registers of `GBNS` fit. -/
def GbnsFits (s : State) : Prop :=
  SlotsFit s.cfg.frameMax s.gbns.frames ∧ s.gbns.timer.cnt ≤ s.cfg.tGbn

/-- The registers of `SRS` fit. -/
def SrsFits (s : State) : Prop :=
  SlotsFit s.cfg.frameMax s.srs.frames ∧ TimersFit s.cfg.tSr s.srs.timers

/-- The reorder buffer fits. -/
def SrrFits (s : State) : Prop :=
  SlotsFit (s.cfg.frameMax - 2) s.srr.reorder

theorem sizesFit_iff (hv : s.cfg.valid = true) : SizesFit s ↔
    s.swns.regs.Fits s.cfg.frameMax s.cfg.tSwn ∧ s.abps.regs.Fits s.cfg.frameMax s.cfg.tAbp ∧
    s.pnas.regs.Fits s.cfg.frameMax s.cfg.tPna ∧ GbnsFits s ∧ SrsFits s ∧ SrrFits s := by
  have hfm := frameMax_of_valid hv
  have hreorder : SrrFits s ↔ ∀ k p, memRead s.srr.reorder k = some p → p.length + 2 ≤ s.cfg.frameMax := by
    simp only [SrrFits, SlotsFit, Nat.le_sub_iff_add_le (show 2 ≤ s.cfg.frameMax by omega)]
  rw [hreorder]
  unfold SizesFit SenderRegs.Fits GbnsFits SrsFits SlotsFit TimersFit NakSender.regs AltSender.regs
  tauto

/-- Every move of a stop-and-wait sender keeps its registers within their sizes. -/
theorem SenderMove.fits {fm T : Nat} {a b : SenderRegs} (hm : SenderMove fm T a b) (h : a.Fits fm T) : b.Fits fm T := by
  have ⟨hbuf, hcnt⟩ := h
  cases hm with
  | same => exact h
  | load f _ _ hf => exact ⟨fun g hg => Option.some.inj hg ▸ hf, Nat.le_refl T⟩
  | restart => exact ⟨hbuf, Nat.le_refl T⟩
  | tick => exact ⟨hbuf, (Timer.tick_cnt_le _).trans hcnt⟩
  | done | fault | shut => exact ⟨hbuf, Nat.zero_le T⟩

theorem fits_of_reset (fm T : Nat) : State.reset.swns.regs.Fits fm T := by
  simp [SenderRegs.Fits, NakSender.regs, State.reset]

theorem gbnsFits_congr (hu : SameUnit .gbns s t) (hcfg : t.cfg = s.cfg) (h : GbnsFits s) : GbnsFits t := by
  have hg : t.gbns = s.gbns := hu
  unfold GbnsFits at *
  rwa [hg, hcfg]

theorem gbnsFits_of_move {g : GbnSender} (hm : GbnsMove s g) (h : GbnsFits s) : GbnsFits { s with gbns := g } := by
  have ⟨hslots, hcnt⟩ := h
  cases hm with
  | same => exact h
  | send f _ _ hf =>
    refine ⟨slotsFit_memWrite _ hslots fun g hg => Option.some.inj hg ▸ hf, ?_⟩
    dsimp only
    split
    · exact Nat.le_refl _
    · exact hcnt
  | acknowledge q =>
    refine ⟨slotsFit_clearThrough _ _ hslots, ?_⟩
    dsimp only [GbnSender.acknowledge]
    split
    · exact Nat.zero_le _
    · exact Nat.le_refl _
  | restart => exact ⟨hslots, Nat.le_refl _⟩
  | tick => exact ⟨hslots, (Timer.tick_cnt_le _).trans hcnt⟩
  | fault | shut => exact ⟨hslots, Nat.zero_le _⟩

theorem gbnsFits_step (hv : s.cfg.valid = true) (h : GbnsFits s) (hs : step s = .next t) : GbnsFits t := by
  refine step_keeps_unit .gbns GbnsFits (fun _ _ => gbnsFits_congr) (fun _ _ => ⟨slotsFit_nil _, Nat.zero_le _⟩) ?_
    s t hv h hs
  intro i s t hc hu _ hv h he
  have hcfg : t.cfg = s.cfg := exec_cfg he
  exact gbnsFits_congr (s := { s with gbns := t.gbns }) rfl hcfg (gbnsFits_of_move (gbns_command hv hc hu he) h)

theorem srsFits_congr (hu : SameUnit .srs s t) (hcfg : t.cfg = s.cfg) (h : SrsFits s) : SrsFits t := by
  have hg : t.srs = s.srs := hu
  unfold SrsFits at *
  rwa [hg, hcfg]

theorem srsFits_of_move {g : SrSender} (hm : SrsMove s g) (h : SrsFits s) : SrsFits { s with srs := g } := by
  have ⟨hslots, hcnt⟩ := h
  cases hm with
  | same => exact h
  | send f _ _ hf =>
    exact ⟨slotsFit_memWrite _ hslots fun g hg => Option.some.inj hg ▸ hf,
      timersFit_setTimerAt _ (timerStart s.cfg.tSr) hcnt (Nat.le_refl _)⟩
  | acknowledge q => exact ⟨slotsFit_clear q hslots, timersFit_setTimerAt _ timerCancel hcnt (Nat.zero_le _)⟩
  | restart k => exact ⟨hslots, timersFit_setTimerAt k (timerStart s.cfg.tSr) hcnt (Nat.le_refl _)⟩
  | tick => exact ⟨hslots, timersFit_tickAll _ hcnt⟩
  | fault | shut => exact ⟨hslots, timersFit_nil _⟩

theorem srsFits_step (hv : s.cfg.valid = true) (h : SrsFits s) (hs : step s = .next t) : SrsFits t := by
  refine step_keeps_unit .srs SrsFits (fun _ _ => srsFits_congr) (fun _ _ => ⟨slotsFit_nil _, timersFit_nil _⟩) ?_
    s t hv h hs
  intro i s t hc hu _ hv h he
  have hcfg : t.cfg = s.cfg := exec_cfg he
  exact srsFits_congr (s := { s with srs := t.srs }) rfl hcfg (srsFits_of_move (srs_command hv hc hu he) h)

theorem srrFits_congr (hu : SameUnit .srr s t) (hcfg : t.cfg = s.cfg) (h : SrrFits s) : SrrFits t := by
  have hg : t.srr = s.srr := hu
  unfold SrrFits at *
  rwa [hg, hcfg]

theorem srrFits_of_move {r : SrReceiver} (hm : SrrMove s r) (h : SrrFits s) : SrrFits { s with srr := r } := by
  cases hm with
  | same => exact h
  | buffer q p _ hp => exact slotsFit_memWrite q h fun f hf => Option.some.inj hf ▸ Nat.le_sub_of_add_le hp
  | drain p n hp hn =>
    subst hn
    exact slotsFit_drain _ _ (slotsFit_memWrite _ h fun f hf => Option.some.inj hf ▸ Nat.le_sub_of_add_le hp)
  | status f => exact h

theorem srrFits_step (hv : s.cfg.valid = true) (h : SrrFits s) (hs : step s = .next t) : SrrFits t := by
  refine step_keeps_unit .srr SrrFits (fun _ _ => srrFits_congr) (fun _ _ => slotsFit_nil _) ?_ s t hv h hs
  intro i s t hc hu hr hv h he
  have hcfg : t.cfg = s.cfg := exec_cfg he
  exact srrFits_congr (s := { s with srr := t.srr }) rfl hcfg (srrFits_of_move (srr_command hc hu hr he) h)

/-- Settles O57: unit by unit, every move keeps frames, payloads and counters within their sizes. -/
theorem sizesKeptByEveryStep : Obligations.SizesKeptByEveryStep := by
  intro s t hv h hs
  obtain ⟨hswns, habps, hpnas, hgbns, hsrs, hsrr⟩ := (sizesFit_iff hv).1 h
  have hv' : t.cfg.valid = true := by rwa [step_cfg hs]
  refine (sizesFit_iff hv').2 ⟨?_, ?_, ?_, ?_, ?_, ?_⟩
  · exact swns_step_keeps (fun c => SenderRegs.Fits c.frameMax c.tSwn) (fun _ => fits_of_reset _ _)
      (fun _ _ _ => SenderMove.fits) hv hswns hs
  · exact abps_step_keeps (fun c => SenderRegs.Fits c.frameMax c.tAbp) (fun _ => fits_of_reset _ _)
      (fun _ _ _ => SenderMove.fits) hv habps hs
  · exact pnas_step_keeps (fun c => SenderRegs.Fits c.frameMax c.tPna) (fun _ => fits_of_reset _ _)
      (fun _ _ _ => SenderMove.fits) hv hpnas hs
  · exact gbnsFits_step hv hgbns hs
  · exact srsFits_step hv hsrs hs
  · exact srrFits_step hv hsrr hs

end Sys2Proof.Machine
end

section
/-! PROOFS. The canonical form of the memory (20_memory.md R60): equal contents are equal data, every operation keeps
the form unit by unit, and O56. -/

namespace Sys2Proof.Machine

variable {u : ProtUnit} {s t : State}

/-! ## Equal contents are equal data -/

/-- An index below every listed one has no entry. -/
theorem readEntry_eq_none_of_lt {α : Type} {a : List (Nat × α)} {i : Nat} (h : ∀ e ∈ a, i < e.1) :
    readEntry a i = none := by
  induction a with
  | nil => rfl
  | cons e rest ih =>
    obtain ⟨hlt, hrest⟩ := List.forall_mem_cons.1 h
    rw [readEntry, if_neg hlt.ne', ih hrest]

/-- Where two lists read alike at the first index of one, that index is listed in the other, so if the other rises it
starts no later. -/
theorem not_head_lt_of_readEntry_eq {α : Type} {m i j : Nat} {v w : α} {a b : List (Nat × α)}
    (hb : entriesRise m ((j, w) :: b) = true) (h : readEntry ((i, v) :: a) i = readEntry ((j, w) :: b) i) :
    ¬ i < j := by
  intro hij
  obtain ⟨-, hrest, -⟩ := (entriesRise_cons m j w b).1 hb
  rw [readEntry_eq_none_of_lt (List.forall_mem_cons.2 ⟨hij, fun e he => hij.trans (hrest e he)⟩)] at h
  simp [readEntry] at h

/-- Rising lists that read alike have the same first entry, and their rests read alike. -/
theorem eq_of_readEntry_eq {α : Type} {m : Nat} {a b : List (Nat × α)} (ha : entriesRise m a = true)
    (hb : entriesRise m b = true) (h : ∀ k, readEntry a k = readEntry b k) : a = b := by
  induction a generalizing b with
  | nil =>
    cases b with
    | nil => rfl
    | cons e b => simpa [readEntry] using h e.1
  | cons e a ih =>
    obtain ⟨i, v⟩ := e
    cases b with
    | nil => simpa [readEntry] using h i
    | cons e b =>
      obtain ⟨j, w⟩ := e
      have hij : ¬ i < j := not_head_lt_of_readEntry_eq hb (h i)
      have hji : ¬ j < i := not_head_lt_of_readEntry_eq ha (h j).symm
      obtain rfl : i = j := by omega
      obtain ⟨-, hai, ha⟩ := (entriesRise_cons m i v a).1 ha
      obtain ⟨-, hbi, hb⟩ := (entriesRise_cons m i w b).1 hb
      have hvw : v = w := by simpa [readEntry] using h i
      have hrest : ∀ k, readEntry a k = readEntry b k := by
        intro k
        by_cases hk : i = k
        · subst hk
          rw [readEntry_eq_none_of_lt hai, readEntry_eq_none_of_lt hbi]
        · simpa [readEntry, hk] using h k
      rw [hvw, ih ha hb hrest]

/-! ## The canonical form, unit by unit -/

/-- A slot array in canonical form: the indices rise strictly and stay below `m` (A11). -/
def SlotsCanonical (m : Nat) (a : SlotArray) : Prop :=
  entriesRise m a = true

theorem slotsCanonical_nil (m : Nat) : SlotsCanonical m [] := rfl

theorem slotsCanonical_memWrite {m i : Nat} {a : SlotArray} (v : Option Bytes) (h : SlotsCanonical m a) (hi : i < m) :
    SlotsCanonical m (memWrite a i v) :=
  entriesRise_memWrite m a i v h hi

theorem slotsCanonical_clear {m i : Nat} {a : SlotArray} (h : SlotsCanonical m a) :
    SlotsCanonical m (memWrite a i none) :=
  entriesRise_memWrite_none m a i h

/-- The timers of `SRS` in canonical form: the indices rise below `m`, and no idle timer is listed. -/
def TimersCanonical (m : Nat) (a : TimerArray) : Prop :=
  entriesRise m a = true ∧ a.all (fun e => decide (e.2 ≠ .idle)) = true

theorem timersCanonical_nil (m : Nat) : TimersCanonical m [] := ⟨rfl, rfl⟩

theorem timersCanonical_setTimerAt {m i : Nat} {a : TimerArray} (x : Timer) (h : TimersCanonical m a) (hi : i < m) :
    TimersCanonical m (setTimerAt a i x) :=
  ⟨entriesRise_setTimerAt m a i x h.1 hi, notIdle_setTimerAt a i x h.2⟩

theorem timersCanonical_cancel {m : Nat} {a : TimerArray} (i : Nat) (h : TimersCanonical m a) :
    TimersCanonical m (setTimerAt a i timerCancel) :=
  ⟨entriesRise_setTimerAt_idle m a i h.1, notIdle_setTimerAt a i timerCancel h.2⟩

theorem timersCanonical_tickAll {m : Nat} {a : TimerArray} (n : Nat) (h : TimersCanonical m a) :
    TimersCanonical m (tickAll n a) :=
  ⟨entriesRise_tickAll m n a h.1, notIdle_tickAll n a h.2⟩

/-- The arrays of a unit are in canonical form; seven units have none. -/
def Canonical : ProtUnit → State → Prop
  | .gbns, s => SlotsCanonical s.cfg.gbnMax s.gbns.frames
  | .srs, s => SlotsCanonical s.cfg.srMax s.srs.frames ∧ TimersCanonical s.cfg.srMax s.srs.timers
  | .srr, s => SlotsCanonical s.cfg.srMax s.srr.reorder ∧ SlotsCanonical s.cfg.srMax s.srr.acks
  | _, _ => True

theorem memory_wf_iff : Memory.wf s = true ↔ ∀ u, Canonical u s := by
  simp only [Memory.wf, Bool.and_eq_true]
  constructor
  · rintro ⟨⟨⟨⟨⟨hg, hf⟩, ht⟩, hidle⟩, hr⟩, ha⟩ u
    cases u with
    | gbns => exact hg
    | srs => exact ⟨hf, ht, hidle⟩
    | srr => exact ⟨hr, ha⟩
    | _ => trivial
  · intro h
    obtain ⟨hf, ht, hidle⟩ := h .srs
    obtain ⟨hr, ha⟩ := h .srr
    exact ⟨⟨⟨⟨⟨h .gbns, hf⟩, ht⟩, hidle⟩, hr⟩, ha⟩

theorem canonical_congr (hu : SameUnit u s t) (hcfg : t.cfg = s.cfg) (h : Canonical u s) : Canonical u t := by
  cases u with
  | gbns | srs | srr =>
    simp only [SameUnit] at hu
    simpa only [Canonical, hu, hcfg] using h
  | _ => trivial

theorem canonical_resetBlock (u : ProtUnit) (s : State) : Canonical u s.resetBlock := by
  cases u with
  | gbns => exact slotsCanonical_nil _
  | srs => exact ⟨slotsCanonical_nil _, timersCanonical_nil _⟩
  | srr => exact ⟨slotsCanonical_nil _, slotsCanonical_nil _⟩
  | _ => trivial

/-! ## Every command of a unit keeps its arrays canonical -/

/-- `GBNS` writes the slot of `nextToSend`, which exists in a working unit, and otherwise empties slots. -/
theorem gbns_command_canonical {i : Instr} (hc : i.frame = none) (hu : instrUnit i = some .gbns)
    (h : Canonical .gbns s) (he : exec i s = .next t) : Canonical .gbns t := by
  cases i with
  | gbnsSend p =>
    dsimp only [exec] at he
    refine hostOperation_next (Canonical .gbns) he (fun _ => h) (fun _ => h) h fun ⟨_, _, hw⟩ _ => ?_
    split
    · exact h
    · exact slotsCanonical_memWrite (some (encodeS (zext8 s.gbns.nextToSend) p)) h (gbn_legal hw).2
  | gbnsRx d =>
    dsimp only [exec] at he
    refine eventOperation_next (Canonical .gbns) he (fun _ => h) h fun _ _ => ?_
    dsimp only
    split
    · exact entriesRise_clearThrough _ _ _ _ _ _ h
    · exact h
  | gbnsTmo =>
    dsimp only [exec] at he
    refine eventOperation_next (Canonical .gbns) he (fun _ => h) h fun _ _ => ?_
    dsimp only
    rw [txAll_eq]
    exact h
  | gbnsTick =>
    dsimp only [exec] at he
    exact eventOperation_next (Canonical .gbns) he (fun _ => h) h fun _ _ => h
  | gbnsCansend =>
    dsimp only [exec] at he
    exact hostOperation_next (Canonical .gbns) he (fun _ => h) (fun _ => h) h fun _ _ => h
  | gbnsStop => exact stopUnit_next (u := .gbns) (Canonical .gbns) he (fun _ => h) (fun _ => h) h h
  | wireN | wireS | nak0 | ack | nak => cases hc
  | _ => cases hu

/-- `SRS` writes the slot and timer of `nextToSend`, or the timer of a slot that exists, and otherwise ticks, cancels
and empties. -/
theorem srs_command_canonical {i : Instr} (hc : i.frame = none) (hu : instrUnit i = some .srs)
    (h : Canonical .srs s) (he : exec i s = .next t) : Canonical .srs t := by
  have ⟨hframes, htimers⟩ := h
  have hcancelled : Canonical .srs (s.cancelTimers .srs) := ⟨hframes, timersCanonical_nil _⟩
  cases i with
  | srsSend p =>
    dsimp only [exec] at he
    refine hostOperation_next (Canonical .srs) he (fun _ => h) (fun _ => hcancelled) h fun ⟨_, _, hw⟩ _ => ?_
    have hlt := (srs_legal hw).2
    split
    · exact h
    · exact ⟨slotsCanonical_memWrite (some (encodeS (zext8 s.srs.nextToSend) p)) hframes hlt,
        timersCanonical_setTimerAt (timerStart s.cfg.tSr) htimers hlt⟩
  | srsRx d =>
    dsimp only [exec] at he
    refine eventOperation_next (Canonical .srs) he (fun _ => hcancelled) h fun _ _ => ?_
    dsimp only
    split
    · exact ⟨slotsCanonical_clear hframes, timersCanonical_cancel _ htimers⟩
    · exact h
  | srsTmo k =>
    dsimp only [exec, execSrsTmo] at he
    split at he
    · rename_i hk
      refine eventOperation_next (Canonical .srs) he (fun _ => hcancelled) h fun _ _ => ?_
      have hrestarted : Canonical .srs
          { s with srs := { s.srs with timers := setTimerAt s.srs.timers k (timerStart s.cfg.tSr) } } :=
        ⟨hframes, timersCanonical_setTimerAt (timerStart s.cfg.tSr) htimers hk⟩
      exact canonical_congr (txSlot_srs _ _ _) (txSlot_cfg _ _ _) hrestarted
    · cases he
  | srsTick =>
    dsimp only [exec] at he
    exact eventOperation_next (Canonical .srs) he (fun _ => hcancelled) h fun _ _ =>
      ⟨hframes, timersCanonical_tickAll _ htimers⟩
  | srsCansend =>
    dsimp only [exec] at he
    exact hostOperation_next (Canonical .srs) he (fun _ => h) (fun _ => hcancelled) h fun _ _ => h
  | srsStop =>
    exact stopUnit_next (u := .srs) (Canonical .srs) he (fun _ => h) (fun _ => hcancelled) hcancelled hcancelled
  | wireN | wireS | nak0 | ack | nak => cases hc
  | _ => cases hu

/-- No number at or above the modulus is in a window (42_window_arith.md R194). -/
theorem lt_of_inWindow {low high m v : Nat} (h : inWindow low high m v = true) : v < m := by
  by_contra hv
  simp [inWindow, not_lt.1 hv] at h

/-- Keeping a payload and its `ACK` writes slots that exist; the drain only empties slots. -/
theorem srrAccept_canonical {d : Bytes} (hq : (seqOf d).toNat < s.cfg.srMax) (h : Canonical .srr s) :
    Canonical .srr (s.srrAccept d) := by
  obtain ⟨hreorder, hacks⟩ := h
  have hkept := slotsCanonical_memWrite (some (textDec s.cfg.textDec (payloadS d))) hreorder hq
  have hstored := slotsCanonical_memWrite (some (ackFrame (seqOf d))) hacks hq
  unfold State.srrAccept
  dsimp only
  split
  · rw [deliverAll_eq]
    exact ⟨entriesRise_drain _ _ _ _ _ hkept, hstored⟩
  · exact ⟨hkept, hstored⟩

/-- `SRR` keeps only numbers of its receive window, whose slots exist. -/
theorem srr_command_canonical {i : Instr} (hc : i.frame = none) (hu : instrUnit i = some .srr)
    (h : Canonical .srr s) (he : exec i s = .next t) : Canonical .srr t := by
  cases i with
  | srrRx d =>
    dsimp only [exec] at he
    refine eventOperation_next (Canonical .srr) he (fun _ => h) h fun _ _ => ?_
    dsimp only
    split
    · exact h
    split
    · rename_i hwin
      exact srrAccept_canonical (lt_of_inWindow hwin) h
    split
    · exact canonical_congr (txSlot_srr s _ _) (txSlot_cfg s _ _) h
    · exact h
  | srrStop => exact stopUnit_next (u := .srr) (Canonical .srr) he (fun _ => h) (fun _ => h) h h
  | wireN | wireS | nak0 | ack | nak => cases hc
  | _ => cases hu

/-! ## Every step -/

/-- Every operation keeps the canonical form: its own unit's by the unit's commands, every other unit's because it
leaves those registers as they are, and reset establishes it. -/
theorem exec_canonical {i : Instr} (h : ∀ u, Canonical u s) (he : exec i s = .next t) (u : ProtUnit) :
    Canonical u t := by
  by_cases hu : instrUnit i = some u
  · obtain ⟨j, hc, hj, -, hexec⟩ := exec_eq_command i
    rw [hu] at hj
    rw [hexec s] at he
    cases u with
    | gbns => exact gbns_command_canonical hc hj (h .gbns) he
    | srs => exact srs_command_canonical hc hj (h .srs) he
    | srr => exact srr_command_canonical hc hj (h .srr) he
    | _ => trivial
  · by_cases hi : i = .sysReset
    · subst hi
      obtain rfl := Host.Outcome.next.inj he
      exact canonical_congr (s := s.resetBlock) (by cases u <;> rfl) rfl (canonical_resetBlock u s)
    · exact canonical_congr (exec_sameUnit hu hi he) (exec_cfg he) (h u)

theorem step_canonical (h : ∀ u, Canonical u s) (hs : step s = .next t) : ∀ u, Canonical u t :=
  step_keeps (fun x => ∀ u, Canonical u x)
    (fun x _ _ _ h u => canonical_congr (s := x) (by cases u <;> rfl) rfl (h u))
    (fun s _ u => canonical_resetBlock u s)
    (fun _ _ _ _ h he => exec_canonical h he) s t h hs

/-- Settles O56: every operation keeps the arrays of each unit canonical, and rising lists that read alike are equal. -/
theorem memoryStaysCanonical : Obligations.MemoryStaysCanonical :=
  ⟨fun _ _ h hs => memory_wf_iff.2 (step_canonical (memory_wf_iff.1 h) hs),
    fun _ _ _ ha hb hread => eq_of_readEntry_eq ha hb hread⟩

end Sys2Proof.Machine
end

section
/-! PROOFS. The event served first, what a reserved code decodes to, and how the decoders of 30_encoding.md undo the
encoder: O7 and O9. -/

namespace Sys2Proof

variable {u : ProtUnit} {i : Instr} {n : Nat} {v : Byte} {args : Bytes}

/-! ## Reserved codes (30_encoding.md R114) -/

/-- A code outside a list that names every row of the table is reserved. -/
theorem rowOf_eq_none {op : Byte} {codes : List Nat} (hcodes : ∀ row ∈ commandTable, row.1 ∈ codes)
    (hop : op.toNat ∉ codes) : rowOf op = none :=
  List.lookup_eq_none_iff.2 fun row hrow => bne_iff_ne.2 fun heq => hop (heq ▸ hcodes row hrow)

theorem decode_of_reserved {op : Byte} (h : rowOf op = none) (args : Bytes) :
    decode (.command .host (op :: args)) = .reserved op := by
  simp [decode, decodeCommand, h]

/-! ## Commands (30_encoding.md R110 to R113) -/

/-- The operation is a command: number `n` is its code, `args` its operand bytes, and it has the form its format
admits. -/
structure CodedAs (i : Instr) (n : Nat) (args : Bytes) : Prop where
  code : i.code = some (zext8 n)
  frame : i.frame = none
  operands : i.operandBytes = args
  formed : i.formed = true

theorem codedAs_of_decodeOp0 (h : decodeOp0 n = some i) : CodedAs i n [] := by
  unfold decodeOp0 at h
  split at h <;> cases h <;> exact ⟨rfl, rfl, rfl, rfl⟩

/-- A bit operand is read only from the byte that carries it. -/
theorem setWidth_of_bitOfByte {b : BitVec 1} (h : bitOfByte v = some b) : b.setWidth 8 = v := by
  unfold bitOfByte at h
  split_ifs at h with h0 h1
  · cases h; exact h0.symm
  · cases h; exact h1.symm

theorem codedAs_of_decodeOp1 (h : decodeOp1 n v = some i) : CodedAs i n [v] := by
  unfold decodeOp1 at h
  split at h
  case h_1 =>
    obtain ⟨b, hb, rfl⟩ := Option.map_eq_some_iff.1 h
    exact ⟨rfl, rfl, congrArg (· :: []) (setWidth_of_bitOfByte hb), rfl⟩
  case h_2 => cases h; exact ⟨rfl, rfl, rfl, rfl⟩
  case h_3 =>
    cases h
    exact ⟨rfl, rfl, by simp [Instr.operandBytes], decide_eq_true (Nat.le_of_lt_succ v.isLt)⟩
  case h_4 => cases h

theorem codedAs_of_decodeOpD (h : decodeOpD n args = some i) : CodedAs i n args := by
  unfold decodeOpD at h
  split at h <;> cases h <;> exact ⟨rfl, rfl, rfl, rfl⟩

theorem codedAs_of_decodeOpSD (h : decodeOpSD n v args = some i) : CodedAs i n (v :: args) := by
  unfold decodeOpSD at h
  split at h <;> cases h
  exact ⟨rfl, rfl, rfl, rfl⟩

theorem modulusOfByte_bounds (v : Byte) : 1 ≤ modulusOfByte v ∧ modulusOfByte v ≤ 256 := by
  unfold modulusOfByte
  split <;> bv_omega

/-- The byte 00 comes back from the modulus 256 it stands for. -/
theorem byteOfModulus_modulusOfByte (v : Byte) : byteOfModulus (modulusOfByte v) = v := by
  unfold byteOfModulus modulusOfByte
  split
  next h => rw [h]; rfl
  next => simp

theorem codedAs_of_decodeOp4 {low high modulus value : Byte} (h : decodeOp4 n low high modulus value = some i) :
    CodedAs i n [low, high, modulus, value] := by
  unfold decodeOp4 at h
  split at h
  · obtain ⟨⟨hlow, hhigh⟩, heq⟩ := Option.ite_none_right_eq_some.1 h
    cases heq
    have hmod := modulusOfByte_bounds modulus
    have hvalue : value.toNat ≤ 255 := Nat.le_of_lt_succ value.isLt
    exact ⟨rfl, rfl, by simp [Instr.operandBytes, byteOfModulus_modulusOfByte],
      by simp [Instr.formed, hmod, hlow, hhigh, hvalue]⟩
  · cases h

/-- In every format the operands are read from all the operand bytes, none left over. -/
theorem codedAs_of_decodeOperands {f : Format} (h : decodeOperands f n args = some i) : CodedAs i n args := by
  unfold decodeOperands at h
  split at h
  · exact codedAs_of_decodeOp0 h
  · exact codedAs_of_decodeOp1 h
  · exact codedAs_of_decodeOpD h
  · exact codedAs_of_decodeOpSD h
  · exact codedAs_of_decodeOp4 h
  · cases h

/-- A message that decodes to an operation is a code byte of a row of the table, on the port of the row's agent, and
operand bytes in the row's format. -/
theorem decodeCommand_eq_instr {a : Agent} {msg : Bytes} (h : decodeCommand a msg = .instr i) :
    ∃ op args f, msg = op :: args ∧ rowOf op = some (f, a) ∧ decodeOperands f op.toNat args = some i := by
  cases msg with
  | nil => cases h
  | cons op args =>
    unfold decodeCommand at h
    cases hrow : rowOf op with
    | none => simp only [hrow] at h; split at h <;> cases h
    | some row =>
      obtain ⟨f, issuer⟩ := row
      simp only [hrow] at h
      split at h
      case isFalse => cases h
      case isTrue ha =>
        split at h <;> cases h
        exact ⟨op, args, f, rfl, ha ▸ hrow, ‹_›⟩

theorem encode_of_codedAs {op : Byte} {f : Format} {a : Agent} (h : CodedAs i op.toNat args)
    (hrow : rowOf op = some (f, a)) : encode i = .command a (op :: args) := by
  simp [encode, h.frame, h.code, h.operands, issuerOf, hrow]

/-! ## Datagrams (30_encoding.md R100 to R107) -/

theorem encode_of_frame {d : Bytes} (h : i.frame = some (u, d)) : encode i = .datagram u d := by
  simp [encode, h]

/-- Below the minimum length of its unit's format a datagram is no frame (R107). -/
theorem decodeDatagram_of_short {d : Bytes} (h : d.length < if u.isNakOnly then 1 else 2) :
    decodeDatagram u d = rxInstr u d := by
  unfold decodeDatagram
  split_ifs at h ⊢
  · obtain rfl := List.length_eq_zero_iff.1 (Nat.lt_one_iff.1 h)
    rfl
  · match d, h with
    | [], _ => rfl
    | [_], _ => rfl

theorem decodeDatagram_of_nakOnly (hu : u.isNakOnly = true) (p : Bytes) (c : Byte) :
    decodeDatagram u (p ++ [c]) = frameN u p c := by
  simp [decodeDatagram, hu]

theorem decodeDatagram_cons (hu : u.isNakOnly = false) (q : Byte) {rest : Bytes} (h : rest ≠ []) :
    decodeDatagram u (q :: rest) = frameS u q rest.dropLast (rest.getLast?.getD 0) := by
  obtain ⟨b, rest, rfl⟩ := List.exists_cons_of_ne_nil h
  simp [decodeDatagram, hu]

theorem decodeDatagram_of_sequenced (hu : u.isNakOnly = false) (q : Byte) (p : Bytes) (c : Byte) :
    decodeDatagram u (q :: (p ++ [c])) = frameS u q p c := by
  rw [decodeDatagram_cons hu q (by simp)]
  simp

/-- A `WIRE-N` datagram keeps its unit and its bytes, and has one name: `NAK0` or the plain frame. -/
theorem frameN_spec (hu : u.isNakOnly = true) (p : Bytes) (c : Byte) :
    (frameN u p c).frame = some (u, p ++ [c]) ∧ (frameN u p c).formed = true := by
  unfold frameN
  split_ifs with h
  · obtain ⟨rfl, rfl, rfl⟩ := h
    exact ⟨rfl, rfl⟩
  · exact ⟨rfl, by simpa [Instr.formed, hu, not_and_or, or_assoc, -not_and] using h⟩

/-- A `WIRE-S` datagram keeps its unit and its bytes, and has one name: `Ack(s)`, `Nak(s)` or the plain frame. -/
theorem frameS_spec (hu : u.isNakOnly = false) (q : Byte) (p : Bytes) (c : Byte) :
    (frameS u q p c).frame = some (u, q :: (p ++ [c])) ∧ (frameS u q p c).formed = true := by
  unfold frameS
  split_ifs with hack hnak
  · obtain ⟨ht, rfl⟩ := hack
    exact ⟨rfl, ht⟩
  · obtain ⟨rfl, rfl⟩ := hnak
    exact ⟨rfl, rfl⟩
  · exact ⟨rfl, by simpa [Instr.formed, hu, not_and_or, -not_and] using And.intro hack hnak⟩

/-- A datagram of the minimum length decodes to a frame with its unit and its bytes. -/
theorem decodeDatagram_frame {d : Bytes} (h : (if u.isNakOnly then 1 else 2) ≤ d.length) :
    (decodeDatagram u d).frame = some (u, d) ∧ (decodeDatagram u d).formed = true := by
  cases hu : u.isNakOnly with
  | true =>
    obtain rfl | ⟨p, c, rfl⟩ := List.eq_nil_or_concat' d
    · simp [hu] at h
    · rw [decodeDatagram_of_nakOnly hu]
      exact frameN_spec hu p c
  | false =>
    match d with
    | [] => simp [hu] at h
    | q :: rest =>
      obtain rfl | ⟨p, c, rfl⟩ := List.eq_nil_or_concat' rest
      · simp [hu] at h
      · rw [decodeDatagram_of_sequenced hu]
        exact frameS_spec hu q p c

end Sys2Proof

namespace Sys2Proof.Machine

/-! ## The event served first -/

/-- The first event of the agenda, where it can be served, is what is served. -/
theorem fetch_of_servable {s : State} {e : Event} {rest : List Event} (ha : s.agenda = e :: rest)
    (he : servable s e = true) : fetch s = serve { s with agenda := rest } e := by
  simp [fetch, ha, takeFirst, he]

theorem step_of_reserved {s : State} {op : Byte} {args : Bytes} {rest : List Event}
    (ha : s.agenda = .offer (.command .host (op :: args)) :: rest) (hop : rowOf op = none) :
    step s = .next (State.answer { s with agenda := rest } .errIllegal) := by
  have hdec := decode_of_reserved hop args
  have hfetch := fetch_of_servable ha (by simp [servable, hdec, servableDecoded])
  simp [step, hfetch, serve, hdec]

/-- Settles O7: the list of the statement names every row of the table, so the code is reserved. -/
theorem reservedCodesAnswerIllegal : Obligations.ReservedCodesAnswerIllegal :=
  fun _ _ _ _ ha hop => step_of_reserved ha (rowOf_eq_none (by decide) hop)

/-- Settles O9: an operation decoded from a command carries its code and operand bytes, one decoded from a datagram of
full length carries its unit and bytes. -/
theorem encodeOfDecodeIsIdentity : Obligations.EncodeOfDecodeIsIdentity := by
  refine ⟨fun a msg i h => ?_, fun u d i h hlen => ?_, fun u d i h hlen => ?_⟩
  · obtain ⟨op, args, f, rfl, hrow, hargs⟩ := decodeCommand_eq_instr h
    have hcoded := codedAs_of_decodeOperands hargs
    exact ⟨encode_of_codedAs hcoded hrow, hcoded.formed⟩
  · cases h
    obtain ⟨hframe, hformed⟩ := decodeDatagram_frame hlen
    exact ⟨encode_of_frame hframe, hformed⟩
  · cases h
    exact decodeDatagram_of_short hlen

end Sys2Proof.Machine
end

section
/-! PROOFS. Runs of operations one after another, runs that touch only the checksum register, and the expansions of
30_encoding.md R118: O12. -/

namespace Sys2Proof.Machine

variable {s t : State}

/-! ## Runs of several operations -/

theorem execAll_cons {i : Instr} (h : exec i s = .next t) (rest : List Instr) :
    execAll (i :: rest) s = execAll rest t := by
  simp [execAll, h]

theorem execAll_append {as : List Instr} (h : execAll as s = .next t) (bs : List Instr) :
    execAll (as ++ bs) s = execAll bs t := by
  induction as generalizing s with
  | nil => cases h; rfl
  | cons i as ih =>
    cases he : exec i s with
    | next r =>
      rw [execAll_cons he] at h
      rw [List.cons_append, execAll_cons he, ih h]
    | fault x => simp [execAll, he] at h
    | refused x => simp [execAll, he] at h

/-! ## Runs of the Checksum Engine (40_crc.md R130) -/

/-- The state with the checksum register at `r` and outputs added: all that a `CRC` operation can change. -/
def State.crcRun (s : State) (r : Byte) (new : List Output) : State :=
  { s with crc := r, outs := s.outs ++ new }

/-- The answer of the `CRC` operations that return no value. -/
abbrev okAnswer : Output := .ret (.status .ok)

@[simp] theorem crcRun_crc (s : State) (r : Byte) (new : List Output) : (s.crcRun r new).crc = r := rfl

@[simp] theorem crcRun_outs (s : State) (r : Byte) (new : List Output) :
    (s.crcRun r new).outs = s.outs ++ new := rfl

@[simp] theorem crcRun_crcRun (s : State) (r r' : Byte) (new new' : List Output) :
    (s.crcRun r new).crcRun r' new' = s.crcRun r' (new ++ new') := by
  simp [State.crcRun]

/-- Runs that end on the same checksum agree in every register, whatever they put out. -/
theorem sameRegisters_crcRun (s : State) (r : Byte) (new new' : List Output) :
    SameRegisters (s.crcRun r new) (s.crcRun r new') :=
  ⟨rfl, rfl, rfl, rfl, rfl, rfl, rfl, rfl, rfl, rfl, rfl⟩

theorem exec_crcClr (s : State) : exec .crcClr s = .next (s.crcRun 0x00 [okAnswer]) := rfl

theorem exec_crcShift (b : BitVec 1) (s : State) :
    exec (.crcShift b) s = .next (s.crcRun (crcStep s.crc b) [okAnswer]) := rfl

theorem exec_crcByte (v : Byte) (s : State) :
    exec (.crcByte v) s = .next (s.crcRun (crcStepByte s.crc v) [okAnswer]) := rfl

theorem exec_crcAug (s : State) : exec .crcAug s = .next (s.crcRun (crcStepByte s.crc 0x00) [okAnswer]) := rfl

theorem exec_crcRead (s : State) : exec .crcRead s = .next (s.crcRun s.crc [.ret (.byte s.crc)]) := rfl

theorem exec_crcCompute (d : Bytes) (s : State) :
    exec (.crcCompute d) s = .next (s.crcRun (crcCompute d) [.ret (.byte (crcCompute d))]) := rfl

theorem exec_crcVerify (d : Bytes) (s : State) :
    exec (.crcVerify d) s = .next (s.crcRun (crcResidue d) [.ret (.truth (crcVerify d))]) := rfl

/-- An operation repeated over a list folds its effect on the register, one answer each. -/
theorem execAll_map_crc {α : Type} {op : α → Instr} {f : Byte → α → Byte}
    (hop : ∀ a s, exec (op a) s = .next (s.crcRun (f s.crc a) [okAnswer])) (as : List α) (s : State) :
    execAll (as.map op) s = .next (s.crcRun (as.foldl f s.crc) (List.replicate as.length okAnswer)) := by
  induction as generalizing s with
  | nil => simp [execAll, State.crcRun]
  | cons a as ih =>
    rw [List.map_cons, execAll_cons (hop a s), ih]
    simp [List.replicate_succ]

/-- `CLR`, then the bytes: the residue of the sequence stands in the register (R137). -/
theorem execAll_crcClr_crcByte (d : Bytes) (rest : List Instr) (s : State) :
    execAll (.crcClr :: (d.map Instr.crcByte ++ rest)) s =
      execAll rest (s.crcRun (crcResidue d) (List.replicate (d.length + 1) okAnswer)) := by
  rw [execAll_cons (exec_crcClr s), execAll_append (execAll_map_crc exec_crcByte d _)]
  simp [crcResidue, List.replicate_succ]

/-! ## The expansions (30_encoding.md R118) -/

/-- The eight `SHIFT`s of the bits of `v`, bit 7 first, step the register by the byte (R133). -/
theorem execAll_crcShift_bits (v : Byte) (s : State) :
    execAll ([7, 6, 5, 4, 3, 2, 1, 0].map fun k => .crcShift (bitAt v k)) s =
      .next (s.crcRun (crcStepByte s.crc v) (List.replicate 8 okAnswer)) :=
  execAll_map_crc (fun k => exec_crcShift (bitAt v k)) _ s

theorem execAll_crcCompute_expansion (d : Bytes) (s : State) :
    execAll (.crcClr :: (d.map Instr.crcByte ++ [.crcAug, .crcRead])) s =
      .next (s.crcRun (crcCompute d)
        (List.replicate (d.length + 1) okAnswer ++ [okAnswer] ++ [.ret (.byte (crcCompute d))])) := by
  rw [execAll_crcClr_crcByte, execAll_cons (exec_crcAug _), execAll_cons (exec_crcRead _)]
  simp [execAll, crcCompute]

theorem execAll_crcVerify_expansion (d : Bytes) (s : State) :
    execAll (.crcClr :: (d.map Instr.crcByte ++ [.crcRead])) s =
      .next (s.crcRun (crcResidue d)
        (List.replicate (d.length + 1) okAnswer ++ [.ret (.byte (crcResidue d))])) := by
  rw [execAll_crcClr_crcByte, execAll_cons (exec_crcRead _)]
  simp [execAll]

/-- Settles O12: an operation and its expansion end on the same checksum, and differ only in the answers before the
last. -/
theorem crcPseudoOperationsExpand : Obligations.CrcPseudoOperationsExpand := by
  refine ⟨fun s v => ?_, fun _ => rfl, ?_, ?_, rfl, fun _ => ⟨rfl, rfl⟩⟩
  · exact ⟨_, _, [], List.replicate 7 okAnswer, exec_crcByte v s, execAll_crcShift_bits v s,
      sameRegisters_crcRun .., by simp, by simp [List.replicate_succ]⟩
  · rintro s d _ rfl
    exact ⟨_, _, _, crcCompute d, exec_crcCompute d s, execAll_crcCompute_expansion d s,
      sameRegisters_crcRun .., rfl, (List.append_assoc ..).symm⟩
  · rintro s d _ rfl
    exact ⟨_, _, _, crcResidue d, exec_crcVerify d s, execAll_crcVerify_expansion d s,
      sameRegisters_crcRun .., rfl, (List.append_assoc ..).symm⟩

end Sys2Proof.Machine
end

section
/-! PROOFS. The Checksum Engine (40_crc.md R131 to R142): the register as a linear machine, single-byte errors, the
byte-at-a-time form, and the division of polynomials over GF(2): O11 and O13 to O17. -/

namespace Sys2Proof.Machine

/-! ## One step and one byte of the register -/

/-- What is exclusive-ored into the shifted register when the bit `out` has left it (R132). -/
def crcReduction (out : Bool) : Byte :=
  if out then crcPoly else 0x00

/-- The generator taken away twice is not taken away at all. -/
theorem crcReduction_xor (a b : Bool) : crcReduction (a ^^ b) = crcReduction a ^^^ crcReduction b := by
  cases a <;> cases b <;> simp [crcReduction]

theorem crcDirectShift_eq_xor (r : Byte) : crcDirectShift r = r <<< 1 ^^^ crcReduction (r.getLsbD 7) := by
  unfold crcDirectShift crcReduction
  cases r.getLsbD 7 <;> simp

/-- The incoming bit enters at bit 0, which the shift has cleared, so a step is a turn of the direct loop (R142) with
that bit exclusive-ored in. -/
theorem crcStep_eq_xor (r : Byte) (b : BitVec 1) : crcStep r b = crcDirectShift r ^^^ b.setWidth 8 := by
  have hor : r <<< 1 ||| b.setWidth 8 = r <<< 1 ^^^ b.setWidth 8 := by
    ext k hk
    cases k <;> simp
  unfold crcStep crcDirectShift
  cases r.getLsbD 7 with
  | false => simp [hor]
  | true => simp only [hor, if_true, BitVec.xor_assoc, BitVec.xor_comm (b.setWidth 8)]

theorem crcStep_zero_right (r : Byte) : crcStep r 0 = crcDirectShift r := by
  simp [crcStep_eq_xor]

theorem crcDirectShift_xor (r r' : Byte) :
    crcDirectShift (r ^^^ r') = crcDirectShift r ^^^ crcDirectShift r' := by
  simp only [crcDirectShift_eq_xor, BitVec.getLsbD_xor, BitVec.shiftLeft_xor_distrib, crcReduction_xor]
  ac_rfl

theorem crcStep_xor (r r' : Byte) (b b' : BitVec 1) :
    crcStep (r ^^^ r') (b ^^^ b') = crcStep r b ^^^ crcStep r' b' := by
  simp only [crcStep_eq_xor, crcDirectShift_xor, BitVec.setWidth_xor]
  ac_rfl

theorem bitAt_xor (v v' : Byte) (k : Nat) : bitAt (v ^^^ v') k = bitAt v k ^^^ bitAt v' k :=
  BitVec.extractLsb'_xor

theorem crcStepByte_xor (r r' v v' : Byte) :
    crcStepByte (r ^^^ r') (v ^^^ v') = crcStepByte r v ^^^ crcStepByte r' v' :=
  List.foldl_hom₂ _ (· ^^^ ·) _ _ _ r r' fun a b k => by
    rw [bitAt_xor, crcStep_xor]

/-- Eight bits fill the empty register and none leaves it. -/
theorem crcStepByte_zero_left (v : Byte) : crcStepByte 0x00 v = v := by
  revert v
  decide

/-- A byte can be fed as eight zero bits and then exclusive-ored in. -/
theorem crcStepByte_eq_xor (r v : Byte) : crcStepByte r v = crcStepByte r 0x00 ^^^ v := by
  calc crcStepByte r v = crcStepByte (r ^^^ 0x00) (0x00 ^^^ v) := by simp
    _ = crcStepByte r 0x00 ^^^ v := by rw [crcStepByte_xor, crcStepByte_zero_left]

/-- The generator has the constant term 1, so eight steps lose nothing of the register (R139). -/
theorem crcStepByte_zero_right_eq_zero {r : Byte} : crcStepByte r 0x00 = 0x00 → r = 0x00 := by
  revert r
  decide

theorem crcStepByte_right_injective (r : Byte) : Function.Injective (crcStepByte r) := fun v w h => by
  rwa [crcStepByte_eq_xor r v, crcStepByte_eq_xor r w, BitVec.xor_right_inj] at h

theorem crcStepByte_left_injective (v : Byte) : Function.Injective (crcStepByte · v) := fun r r' h => by
  have hxor : crcStepByte (r ^^^ r') (v ^^^ v) = 0x00 := by
    rw [crcStepByte_xor]
    exact BitVec.xor_eq_zero_iff.2 h
  rw [BitVec.xor_self] at hxor
  exact BitVec.xor_eq_zero_iff.1 (crcStepByte_zero_right_eq_zero hxor)

/-! ## The register over a sequence -/

theorem foldl_crcStepByte_injective (d : Bytes) : Function.Injective (d.foldl crcStepByte ·) := by
  induction d with
  | nil => exact fun _ _ h => h
  | cons v d ih => exact fun _ _ h => crcStepByte_left_injective v (ih h)

theorem foldl_crcStepByte_xor {a b : Bytes} (h : a.length = b.length) (r r' : Byte) :
    (List.zipWith (· ^^^ ·) a b).foldl crcStepByte (r ^^^ r') =
      a.foldl crcStepByte r ^^^ b.foldl crcStepByte r' := by
  induction a generalizing b r r' with
  | nil => cases b with
    | nil => rfl
    | cons w b => cases h
  | cons v a ih => cases b with
    | nil => cases h
    | cons w b =>
      simp only [List.zipWith_cons_cons, List.foldl_cons, crcStepByte_xor]
      exact ih (Nat.succ.inj h) _ _

theorem crcResidue_append_singleton (d : Bytes) (c : Byte) :
    crcResidue (d ++ [c]) = crcStepByte (crcResidue d) c := by
  simp [crcResidue]

theorem crcCompute_eq_crcResidue (d : Bytes) : crcCompute d = crcResidue (d ++ [0x00]) :=
  (crcResidue_append_singleton d 0x00).symm

theorem crcResidue_xor {a b : Bytes} (h : a.length = b.length) :
    crcResidue (List.zipWith (· ^^^ ·) a b) = crcResidue a ^^^ crcResidue b :=
  foldl_crcStepByte_xor h 0x00 0x00

theorem crcCompute_xor {a b : Bytes} (h : a.length = b.length) :
    crcCompute (List.zipWith (· ^^^ ·) a b) = crcCompute a ^^^ crcCompute b := by
  calc crcCompute (List.zipWith (· ^^^ ·) a b)
      = crcStepByte (crcResidue a ^^^ crcResidue b) (0x00 ^^^ 0x00) := by rw [crcCompute, crcResidue_xor h]; rfl
    _ = crcCompute a ^^^ crcCompute b := crcStepByte_xor ..

/-- What the checksum byte received does to the residue is its difference from the checksum computed. -/
theorem crcVerify_append_singleton (d : Bytes) (c : Byte) : crcVerify (d ++ [c]) = true ↔ crcCompute d = c := by
  rw [crcVerify, decide_eq_true_iff, crcResidue_append_singleton, crcStepByte_eq_xor]
  exact BitVec.xor_eq_zero_iff

/-- A change within one byte, of one bit or of more, changes the residue: the byte moves the register, and no later
byte brings the two registers together again. -/
theorem crcResidue_modify_ne {d : Bytes} {i : Nat} {f : Byte → Byte} (hi : i < d.length) (hf : ∀ v, f v ≠ v) :
    crcResidue (d.modify i f) ≠ crcResidue d := by
  obtain ⟨before, v, after, rfl, -, hmodify⟩ := List.exists_of_modify f hi
  rw [hmodify]
  simp only [crcResidue, List.foldl_append, List.foldl_cons]
  exact fun h => hf v (crcStepByte_right_injective _ (foldl_crcStepByte_injective after h))

theorem xor_one_shiftLeft_ne (v : Byte) {k : Nat} (hk : k < 8) : v ^^^ (1#8 <<< k) ≠ v := fun h => by
  have hbit := congrArg (BitVec.getLsbD · k) h
  simp [hk] at hbit

/-! ## The byte-at-a-time form (R142) -/

theorem foldl_crcDirectShift (r : Byte) :
    (List.range 8).foldl (fun r _ => crcDirectShift r) r = crcStepByte r 0x00 := by
  have hstep : ∀ r k, crcStep r (bitAt 0x00 k) = crcDirectShift r := fun r k =>
    (congrArg (crcStep r) BitVec.extractLsb'_zero).trans (crcStep_zero_right r)
  simp only [crcStepByte, hstep]
  rfl

/-- The register of the direct form is ahead of that of the bit-serial form by the eight appended zero bits. -/
theorem foldl_crcComputeDirect (d : Bytes) (r : Byte) :
    d.foldl (fun r v => (List.range 8).foldl (fun r _ => crcDirectShift r) (r ^^^ v)) (crcStepByte r 0x00) =
      crcStepByte (d.foldl crcStepByte r) 0x00 :=
  List.foldl_hom (crcStepByte · 0x00) fun r v => by rw [foldl_crcDirectShift, ← crcStepByte_eq_xor]

/-! ## Division of polynomials over GF(2) (R138) -/

open Polynomial

/-- `G(x) = x^8 + x^2 + x + 1` (R138). -/
noncomputable def crcGenerator : (ZMod 2)[X] :=
  X ^ 8 + X ^ 2 + X + 1

/-- The polynomial whose coefficient of `x^k` is bit `k` of the register. -/
noncomputable def packedPoly (r : Byte) : (ZMod 2)[X] :=
  (Finset.range 8).sum fun k => if r.getLsbD k then X ^ k else 0

/-- The dividend with one more bit brought down. -/
noncomputable def bringDown (p : (ZMod 2)[X]) (b : Bool) : (ZMod 2)[X] :=
  p * X + if b then 1 else 0

/-- The bits of a sequence in the order they are fed, bit 7 of each byte first (20_memory.md R62). -/
def messageBits (d : Bytes) : List Bool :=
  d.flatMap fun v => [7, 6, 5, 4, 3, 2, 1, 0].map fun k => v.getLsbD k

/-- `D(x)`: the bits of the sequence, the first the highest coefficient (R138). -/
noncomputable def messagePoly (d : Bytes) : (ZMod 2)[X] :=
  (messageBits d).foldl bringDown 0

theorem crcGenerator_monic : crcGenerator.Monic := by
  unfold crcGenerator
  monicity!

theorem degree_crcGenerator : crcGenerator.degree = 8 := by
  unfold crcGenerator
  compute_degree!

theorem degree_packedPoly_lt (r : Byte) : (packedPoly r).degree < crcGenerator.degree := by
  rw [degree_crcGenerator]
  refine mem_degreeLT.1 (Submodule.sum_mem _ fun k hk => mem_degreeLT.2 ?_)
  split
  · rw [degree_X_pow]
    exact_mod_cast Finset.mem_range.1 hk
  · simp [bot_lt_iff_ne_bot]

theorem packedPoly_modByMonic (r : Byte) : packedPoly r %ₘ crcGenerator = packedPoly r :=
  (modByMonic_eq_self_iff crcGenerator_monic).2 (degree_packedPoly_lt r)

theorem packedPoly_zero : packedPoly 0x00 = 0 := by
  simp [packedPoly]

/-- Exclusive-or of registers is addition over GF(2). -/
theorem packedPoly_xor (r r' : Byte) : packedPoly (r ^^^ r') = packedPoly r + packedPoly r' := by
  unfold packedPoly
  rw [← Finset.sum_add_distrib]
  refine Finset.sum_congr rfl fun k _ => ?_
  rw [BitVec.getLsbD_xor]
  cases r.getLsbD k <;> cases r'.getLsbD k <;> simp [CharTwo.add_self_eq_zero]

theorem packedPoly_shiftLeft_one (r : Byte) :
    packedPoly (r <<< 1) + (if r.getLsbD 7 then X ^ 8 else 0) = packedPoly r * X := by
  have hlow : packedPoly (r <<< 1) =
      (Finset.range 7).sum fun k => if r.getLsbD k then X ^ (k + 1) else 0 := by
    rw [packedPoly, Finset.sum_range_succ', if_neg (by simp), add_zero]
    refine Finset.sum_congr rfl fun k hk => ?_
    have hk8 : k + 1 < 8 := Nat.succ_lt_succ (Finset.mem_range.1 hk)
    rw [BitVec.getLsbD_shiftLeft, decide_eq_true hk8]
    simp
  rw [hlow, packedPoly, Finset.sum_mul, Finset.sum_range_succ _ 7]
  simp [ite_mul, pow_succ]

theorem packedPoly_crcPoly : packedPoly crcPoly = X ^ 2 + X + 1 := by
  simp [packedPoly, crcPoly, Finset.sum_range_succ]
  ring

/-- Over GF(2) the generator can be taken away by adding it. -/
theorem packedPoly_crcDirectShift (r : Byte) :
    packedPoly (crcDirectShift r) = packedPoly r * X + if r.getLsbD 7 then crcGenerator else 0 := by
  rw [← packedPoly_shiftLeft_one, crcDirectShift]
  cases r.getLsbD 7 with
  | false => simp
  | true =>
    have htop : (X ^ 8 + X ^ 8 : (ZMod 2)[X]) = 0 := CharTwo.add_self_eq_zero _
    simp only [if_true, packedPoly_xor, packedPoly_crcPoly, crcGenerator]
    linear_combination -htop

theorem packedPoly_setWidth_ofBool (b : Bool) :
    packedPoly ((BitVec.ofBool b).setWidth 8) = if b then 1 else 0 := by
  cases b <;> simp [packedPoly]

/-- One step of the register is one step of long division: the next bit is brought down, and the generator taken away
when the coefficient of `x^8` is 1. -/
theorem packedPoly_crcStep (r : Byte) (b : Bool) :
    packedPoly (crcStep r (BitVec.ofBool b)) = bringDown (packedPoly r) b %ₘ crcGenerator := by
  have hstep : packedPoly (crcStep r (BitVec.ofBool b)) =
      bringDown (packedPoly r) b + if r.getLsbD 7 then crcGenerator else 0 := by
    rw [crcStep_eq_xor, packedPoly_xor, packedPoly_crcDirectShift, packedPoly_setWidth_ofBool, bringDown]
    ring
  rw [← packedPoly_modByMonic, hstep]
  refine modByMonic_eq_of_dvd_sub crcGenerator_monic ?_
  rw [add_sub_cancel_left]
  split <;> simp

theorem bringDown_modByMonic (p : (ZMod 2)[X]) (b : Bool) :
    bringDown p b %ₘ crcGenerator = bringDown (p %ₘ crcGenerator) b %ₘ crcGenerator := by
  refine modByMonic_eq_of_dvd_sub crcGenerator_monic ?_
  have : bringDown p b - bringDown (p %ₘ crcGenerator) b = (p - p %ₘ crcGenerator) * X := by
    unfold bringDown
    ring
  rw [this]
  exact (dvd_sub_comm.1 (dvd_modByMonic_sub p _)).mul_right X

theorem bitAt_eq_ofBool (v : Byte) (k : Nat) : bitAt v k = BitVec.ofBool (v.getLsbD k) := by
  ext j hj
  obtain rfl : j = 0 := by omega
  simp [bitAt]

theorem crcResidue_eq_foldl_messageBits (d : Bytes) :
    crcResidue d = (messageBits d).foldl (fun r b => crcStep r (BitVec.ofBool b)) 0x00 := by
  simp only [crcResidue, messageBits, List.foldl_flatMap, List.foldl_map, ← bitAt_eq_ofBool]
  rfl

theorem packedPoly_crcResidue (d : Bytes) : packedPoly (crcResidue d) = messagePoly d %ₘ crcGenerator := by
  calc packedPoly (crcResidue d)
      = (messageBits d).foldl (fun p b => bringDown p b %ₘ crcGenerator) (packedPoly 0x00) := by
        rw [crcResidue_eq_foldl_messageBits, List.foldl_hom packedPoly fun r b => (packedPoly_crcStep r b).symm]
    _ = (messageBits d).foldl (fun p b => bringDown p b %ₘ crcGenerator) (0 %ₘ crcGenerator) := by
        rw [packedPoly_zero, zero_modByMonic]
    _ = messagePoly d %ₘ crcGenerator :=
        List.foldl_hom (· %ₘ crcGenerator) fun p b => (bringDown_modByMonic p b).symm

/-- The eight appended zero bits multiply the dividend by `x^8` (R136). -/
theorem messagePoly_append_zero (d : Bytes) : messagePoly (d ++ [0x00]) = messagePoly d * X ^ 8 := by
  simp [messagePoly, messageBits, bringDown]
  ring

/-! ## The obligations -/

/-- Settles O11: by the rules of the seven operations, whose results the statement writes out. -/
theorem crcOperationResults : Obligations.CrcOperationResults :=
  fun s b v d => ⟨exec_crcClr s, exec_crcShift b s, exec_crcByte v s, exec_crcAug s, exec_crcRead s,
    exec_crcCompute d s, exec_crcVerify d s⟩

/-- Settles O13: a flip of one bit is a change within one byte, so the residue is no longer zero. -/
theorem checksumDetectsSingleBitErrors : Obligations.ChecksumDetectsSingleBitErrors := by
  have hverify : ∀ d : Bytes, crcVerify (d ++ [crcCompute d]) = true :=
    fun d => (crcVerify_append_singleton d _).2 rfl
  refine ⟨hverify, fun d n hn => ?_, crcVerify_append_singleton⟩
  have hzero : crcResidue (d ++ [crcCompute d]) = 0x00 := of_decide_eq_true (hverify d)
  have hi : n / 8 < (d ++ [crcCompute d]).length := by
    rw [List.length_append, List.length_singleton]
    omega
  have hne := crcResidue_modify_ne hi fun v => xor_one_shiftLeft_ne v (Nat.mod_lt n (by omega))
  rw [hzero] at hne
  exact decide_eq_false hne

/-- Settles O14: a zero byte keeps the zero register. -/
theorem leadingZerosKeepTheChecksum : Obligations.LeadingZerosKeepTheChecksum := by
  have hresidue : ∀ d : Bytes, crcResidue (0x00 :: d) = crcResidue d := fun d => by
    rw [crcResidue, List.foldl_cons, crcStepByte_zero_left, crcResidue]
  refine ⟨fun d => ⟨?_, hresidue d⟩, crcStepByte_zero_left 0x00, rfl, fun q p => ⟨rfl, ?_, rfl, ?_⟩⟩
  · rw [crcCompute, hresidue, crcCompute]
  · simp [encodeN]
  · simp [encodeS]

/-- Settles O15: the texts of the two `Ack` frames cancel. -/
theorem checksumIsLinear : Obligations.ChecksumIsLinear :=
  ⟨fun _ _ h => ⟨crcResidue_xor h, crcCompute_xor h⟩,
    fun q r => (crcCompute_xor (a := [q, 0x41, 0x43, 0x4B]) (b := [r, 0x41, 0x43, 0x4B]) rfl).symm⟩

/-- Settles O16: both registers start at zero, where the eight zero bits change nothing. -/
theorem directFormEqualsCompute : Obligations.DirectFormEqualsCompute :=
  ⟨fun d => foldl_crcComputeDirect d 0x00, by decide +kernel⟩

/-- Settles O17: the residue is the remainder step by step, the checksum is the residue with a zero byte appended. -/
theorem residueIsPolynomialRemainder : Obligations.ResidueIsPolynomialRemainder := fun d => by
  refine ⟨packedPoly_crcResidue d, ?_⟩
  calc packedPoly (crcCompute d) = messagePoly (d ++ [0x00]) %ₘ crcGenerator := by
        rw [crcCompute_eq_crcResidue, packedPoly_crcResidue]
    _ = (messagePoly d * X ^ 8) %ₘ crcGenerator := by rw [messagePoly_append_zero]

end Sys2Proof.Machine
end

section
/-! PROOFS. The tolerant text decoder against the table of well-formed sequences (41_frame_codec.md R166, R167): O20. -/

namespace Sys2Proof.Machine

/-! ## The rows of the table (R167) -/

theorem byteIn_iff {lo hi v : Byte} : byteIn lo hi v = true ↔ lo.toNat ≤ v.toNat ∧ v.toNat ≤ hi.toNat := by
  simp [byteIn]

theorem isCont_iff {v : Byte} : isCont v = true ↔ 0x80 ≤ v.toNat ∧ v.toNat ≤ 0xBF :=
  byteIn_iff

theorem utf8Char_one_iff {a : Byte} : Utf8Char [a] ↔ byteIn 0x00 0x7F a = true := by
  rw [byteIn_iff]
  constructor
  · rintro ⟨⟩
    exact ⟨Nat.zero_le _, ‹_›⟩
  · exact fun ⟨_, h⟩ => .one a h

theorem utf8Char_two_iff {a b : Byte} : Utf8Char [a, b] ↔ byteIn 0xC2 0xDF a = true ∧ isCont b = true := by
  rw [byteIn_iff, isCont_iff]
  constructor
  · rintro ⟨⟩
    exact ⟨⟨‹_›, ‹_›⟩, ‹_›, ‹_›⟩
  · exact fun ⟨⟨h₁, h₂⟩, h₃, h₄⟩ => .two a b h₁ h₂ h₃ h₄

/-- The four rows of three bytes, as the second byte's range under each first byte. -/
theorem secondOfThree_iff {a b : Byte} : secondOfThree a b = true ↔
    (a = 0xE0 ∧ 0xA0 ≤ b.toNat ∧ b.toNat ≤ 0xBF) ∨
    ((0xE1 ≤ a.toNat ∧ a.toNat ≤ 0xEC) ∧ 0x80 ≤ b.toNat ∧ b.toNat ≤ 0xBF) ∨
    (a = 0xED ∧ 0x80 ≤ b.toNat ∧ b.toNat ≤ 0x9F) ∨
    ((0xEE ≤ a.toNat ∧ a.toNat ≤ 0xEF) ∧ 0x80 ≤ b.toNat ∧ b.toNat ≤ 0xBF) := by
  have heq (v : Byte) : a = v ↔ a.toNat = v.toNat := BitVec.toNat_inj.symm
  simp only [secondOfThree, Bool.ite_eq_true_distrib, byteIn_iff, isCont_iff, heq, BitVec.reduceToNat,
    Bool.false_eq_true]
  split_ifs
  case neg => rw [false_iff]; omega
  all_goals omega

/-- The three rows of four bytes, as the second byte's range under each first byte. -/
theorem secondOfFour_iff {a b : Byte} : secondOfFour a b = true ↔
    (a = 0xF0 ∧ 0x90 ≤ b.toNat ∧ b.toNat ≤ 0xBF) ∨
    ((0xF1 ≤ a.toNat ∧ a.toNat ≤ 0xF3) ∧ 0x80 ≤ b.toNat ∧ b.toNat ≤ 0xBF) ∨
    (a = 0xF4 ∧ 0x80 ≤ b.toNat ∧ b.toNat ≤ 0x8F) := by
  have heq (v : Byte) : a = v ↔ a.toNat = v.toNat := BitVec.toNat_inj.symm
  simp only [secondOfFour, Bool.ite_eq_true_distrib, byteIn_iff, isCont_iff, heq, BitVec.reduceToNat,
    Bool.false_eq_true]
  split_ifs
  case neg => rw [false_iff]; omega
  all_goals omega

theorem utf8Char_three_iff {a b c : Byte} :
    Utf8Char [a, b, c] ↔ secondOfThree a b = true ∧ isCont c = true := by
  rw [secondOfThree_iff, isCont_iff]
  constructor
  · intro h
    cases h with
    | threeE0 => exact ⟨.inl ⟨rfl, ‹_›, ‹_›⟩, ‹_›, ‹_›⟩
    | threeE1 => exact ⟨.inr (.inl ⟨⟨‹_›, ‹_›⟩, ‹_›, ‹_›⟩), ‹_›, ‹_›⟩
    | threeED => exact ⟨.inr (.inr (.inl ⟨rfl, ‹_›, ‹_›⟩)), ‹_›, ‹_›⟩
    | threeEE => exact ⟨.inr (.inr (.inr ⟨⟨‹_›, ‹_›⟩, ‹_›, ‹_›⟩)), ‹_›, ‹_›⟩
  · rintro ⟨⟨rfl, hb₁, hb₂⟩ | ⟨⟨ha₁, ha₂⟩, hb₁, hb₂⟩ | ⟨rfl, hb₁, hb₂⟩ | ⟨⟨ha₁, ha₂⟩, hb₁, hb₂⟩, hc₁, hc₂⟩
    · exact .threeE0 b c hb₁ hb₂ hc₁ hc₂
    · exact .threeE1 a b c ha₁ ha₂ hb₁ hb₂ hc₁ hc₂
    · exact .threeED b c hb₁ hb₂ hc₁ hc₂
    · exact .threeEE a b c ha₁ ha₂ hb₁ hb₂ hc₁ hc₂

theorem utf8Char_four_iff {a b c d : Byte} :
    Utf8Char [a, b, c, d] ↔ secondOfFour a b = true ∧ isCont c = true ∧ isCont d = true := by
  rw [secondOfFour_iff, isCont_iff, isCont_iff]
  constructor
  · intro h
    cases h with
    | fourF0 => exact ⟨.inl ⟨rfl, ‹_›, ‹_›⟩, ⟨‹_›, ‹_›⟩, ‹_›, ‹_›⟩
    | fourF1 => exact ⟨.inr (.inl ⟨⟨‹_›, ‹_›⟩, ‹_›, ‹_›⟩), ⟨‹_›, ‹_›⟩, ‹_›, ‹_›⟩
    | fourF4 => exact ⟨.inr (.inr ⟨rfl, ‹_›, ‹_›⟩), ⟨‹_›, ‹_›⟩, ‹_›, ‹_›⟩
  · rintro ⟨⟨rfl, hb₁, hb₂⟩ | ⟨⟨ha₁, ha₂⟩, hb₁, hb₂⟩ | ⟨rfl, hb₁, hb₂⟩, ⟨hc₁, hc₂⟩, hd₁, hd₂⟩
    · exact .fourF0 b c d hb₁ hb₂ hc₁ hc₂ hd₁ hd₂
    · exact .fourF1 a b c d ha₁ ha₂ hb₁ hb₂ hc₁ hc₂ hd₁ hd₂
    · exact .fourF4 b c d hb₁ hb₂ hc₁ hc₂ hd₁ hd₂

theorem wfTwo_iff {a : Byte} {rest : Bytes} :
    wfTwo a rest = true ↔ ∃ b tail, rest = b :: tail ∧ Utf8Char [a, b] := by
  match rest with
  | [] => simp [wfTwo]
  | b :: tail => simp [wfTwo, utf8Char_two_iff]

theorem wfThree_iff {a : Byte} {rest : Bytes} :
    wfThree a rest = true ↔ ∃ b c tail, rest = b :: c :: tail ∧ Utf8Char [a, b, c] := by
  match rest with
  | [] | [b] => simp [wfThree]
  | b :: c :: tail => simp [wfThree, utf8Char_three_iff]

theorem wfFour_iff {a : Byte} {rest : Bytes} :
    wfFour a rest = true ↔ ∃ b c d tail, rest = b :: c :: d :: tail ∧ Utf8Char [a, b, c, d] := by
  match rest with
  | [] | [b] | [b, c] => simp [wfFour]
  | b :: c :: d :: tail => simp [wfFour, utf8Char_four_iff, and_assoc]

/-! ## What starts at the front of the bytes -/

/-- A well-formed sequence stands at the front. -/
def StartsUtf8Char (b : Bytes) : Prop :=
  ∃ c tail, Utf8Char c ∧ b = c ++ tail

/-- `WfLen` finds the well-formed sequence at the front, if there is one (R167). -/
theorem wfLen_cases (b : Bytes) :
    (wfLen b = 0 ∧ ¬ StartsUtf8Char b) ∨ ∃ c tail, Utf8Char c ∧ b = c ++ tail ∧ wfLen b = c.length := by
  match b with
  | [] =>
    refine .inl ⟨rfl, ?_⟩
    rintro ⟨c, tail, hc, h⟩
    obtain ⟨rfl, -⟩ := List.append_eq_nil_iff.1 h.symm
    cases hc
  | a :: rest =>
    simp only [wfLen]
    split_ifs with h₁ h₂ h₃ h₄
    · exact .inr ⟨[a], rest, utf8Char_one_iff.2 h₁, rfl, rfl⟩
    · obtain ⟨b, tail, rfl, hc⟩ := wfTwo_iff.1 h₂
      exact .inr ⟨[a, b], tail, hc, rfl, rfl⟩
    · obtain ⟨b, c, tail, rfl, hc⟩ := wfThree_iff.1 h₃
      exact .inr ⟨[a, b, c], tail, hc, rfl, rfl⟩
    · obtain ⟨b, c, d, tail, rfl, hc⟩ := wfFour_iff.1 h₄
      exact .inr ⟨[a, b, c, d], tail, hc, rfl, rfl⟩
    · refine .inl ⟨rfl, ?_⟩
      rintro ⟨seq, tail, hseq, h⟩
      match seq, hseq with
      | [_], hc =>
        obtain ⟨rfl, rfl⟩ := List.cons.inj h
        exact h₁ (utf8Char_one_iff.1 hc)
      | [_, b], hc =>
        obtain ⟨rfl, rfl⟩ := List.cons.inj h
        exact h₂ (wfTwo_iff.2 ⟨b, tail, rfl, hc⟩)
      | [_, b, c], hc =>
        obtain ⟨rfl, rfl⟩ := List.cons.inj h
        exact h₃ (wfThree_iff.2 ⟨b, c, tail, rfl, hc⟩)
      | [_, b, c, d], hc =>
        obtain ⟨rfl, rfl⟩ := List.cons.inj h
        exact h₄ (wfFour_iff.2 ⟨b, c, d, tail, rfl, hc⟩)

/-- The length of a well-formed sequence with the first byte `a`: the ranges of first bytes do not overlap (R167). -/
def leadLength (a : Byte) : Nat :=
  if a.toNat ≤ 0x7F then 1 else if a.toNat ≤ 0xDF then 2 else if a.toNat ≤ 0xEF then 3 else 4

theorem Utf8Char.length_eq {a : Byte} {l : Bytes} (h : Utf8Char (a :: l)) :
    (a :: l).length = leadLength a := by
  unfold leadLength
  cases h with
  | one => rw [if_pos ‹_›]; rfl
  | threeE0 | threeED | fourF0 | fourF4 => rfl
  | two | threeE1 | threeEE | fourF1 =>
    simp only [List.length_cons, List.length_nil]
    split_ifs <;> omega

/-- No well-formed sequence begins another: of bytes, only one can stand at the front. -/
theorem Utf8Char.eq_of_append_eq {c c' tail tail' : Bytes} (hc : Utf8Char c) (hc' : Utf8Char c')
    (h : c ++ tail = c' ++ tail') : c = c' := by
  match c, c', hc, hc' with
  | a :: l, a' :: l', hc, hc' =>
    obtain rfl : a = a' := (List.cons.inj h).1
    exact List.append_inj_left h (hc.length_eq.trans hc'.length_eq.symm)

theorem wfLen_of_utf8Char {c : Bytes} (hc : Utf8Char c) (rest : Bytes) : wfLen (c ++ rest) = c.length := by
  rcases wfLen_cases (c ++ rest) with ⟨-, hnone⟩ | ⟨c', tail, hc', h, hlen⟩
  · exact absurd ⟨c, rest, hc, rfl⟩ hnone
  · rw [hlen, hc.eq_of_append_eq hc' h]

theorem wfLen_of_not_starts {b : Bytes} (h : ¬ StartsUtf8Char b) : wfLen b = 0 := by
  rcases wfLen_cases b with ⟨hzero, -⟩ | ⟨c, tail, hc, hb, -⟩
  · exact hzero
  · exact absurd ⟨c, tail, hc, hb⟩ h

/-! ## The default decoder (R166) -/

@[simp] theorem textDecStandard_nil : textDecStandard [] = [] := rfl

theorem textScan_length_append (c rest : Bytes) : textScan c.length (c ++ rest) = c ++ textDecStandard rest := by
  induction c with
  | nil => rfl
  | cons a l ih => simpa [textScan] using ih

/-- A well-formed sequence at the front is copied. -/
theorem textDecStandard_append {c : Bytes} (hc : Utf8Char c) (rest : Bytes) :
    textDecStandard (c ++ rest) = c ++ textDecStandard rest := by
  match c, hc with
  | a :: l, hc =>
    have hlen : wfLen (a :: (l ++ rest)) = l.length + 1 := wfLen_of_utf8Char hc rest
    calc textDecStandard (a :: (l ++ rest)) = a :: textScan l.length (l ++ rest) := by
          simp only [textDecStandard, textScan, hlen]
      _ = a :: (l ++ textDecStandard rest) := by rw [textScan_length_append]

/-- A byte at which no well-formed sequence starts is dropped. -/
theorem textDecStandard_cons {v : Byte} {rest : Bytes} (h : ¬ StartsUtf8Char (v :: rest)) :
    textDecStandard (v :: rest) = textDecStandard rest := by
  simp only [textDecStandard, textScan, wfLen_of_not_starts h]

theorem Utf8Char.length_pos {c : Bytes} (hc : Utf8Char c) : 0 < c.length := by
  match c, hc with
  | _ :: _, _ => exact Nat.succ_pos _

/-- Each turn of the scan copies a well-formed sequence or drops a byte, so only well-formed text is left. -/
theorem utf8_textDecStandard (b : Bytes) : Utf8 (textDecStandard b) := by
  by_cases h : StartsUtf8Char b
  · obtain ⟨c, tail, hc, hb⟩ := h
    have hshorter : tail.length < b.length := by
      rw [hb, List.length_append]
      exact Nat.lt_add_of_pos_left hc.length_pos
    rw [hb, textDecStandard_append hc]
    exact .char c _ hc (utf8_textDecStandard tail)
  · match b with
    | [] => exact .nil
    | v :: rest =>
      rw [textDecStandard_cons h]
      exact utf8_textDecStandard rest
termination_by b.length

theorem textDecStandard_of_utf8 {b : Bytes} (h : Utf8 b) : textDecStandard b = b := by
  induction h with
  | nil => rfl
  | char c rest hc _ ih => rw [textDecStandard_append hc, ih]

/-- Every configured decoder is the identity on well-formed UTF-8. -/
theorem textDec_of_utf8 (t : TextDecSel) {b : Bytes} (h : Utf8 b) : textDec t b = b := by
  have hb := textDecStandard_of_utf8 h
  cases t with
  | standard => exact hb
  | custom k => exact if_pos (decide_eq_true hb)

/-- Settles O20: the constraints hold of every decoder, and the default follows the table of R167. -/
theorem textDecoderContract : Obligations.TextDecoderContract :=
  ⟨fun t b => ⟨textDec_of_utf8 t, textDec_length_le t b⟩, utf8_textDecStandard,
    fun _ rest hc => textDecStandard_append hc rest, fun _ _ h => textDecStandard_cons h⟩

end Sys2Proof.Machine
end

section
/-! PROOFS. Frames put together and taken apart, the operations of the Frame Codec and the classification of control
frames (41_frame_codec.md R161 to R175): O18, O19, O21. -/

namespace Sys2Proof.Machine

/-! ## Taking a datagram apart (R163, R164) -/

@[simp] theorem seqOf_cons (q : Byte) (d : Bytes) : seqOf (q :: d) = q := rfl

@[simp] theorem payloadN_append (p : Bytes) (c : Byte) : payloadN (p ++ [c]) = p := by
  simp [payloadN]

@[simp] theorem payloadS_cons_append (q : Byte) (p : Bytes) (c : Byte) : payloadS (q :: (p ++ [c])) = p := by
  simp [payloadS]

theorem payloadS_eq_take (d : Bytes) : payloadS d = (d.drop 1).take (d.length - 2) := by
  rw [payloadS, List.dropLast_eq_take, List.drop_one, List.length_tail, Nat.sub_sub]

theorem validN_append (p : Bytes) (c : Byte) : validN (p ++ [c]) = crcVerify (p ++ [c]) := by
  simp [validN]

theorem validS_cons_append (q : Byte) (p : Bytes) (c : Byte) :
    validS (q :: (p ++ [c])) = crcVerify (q :: (p ++ [c])) := by
  simp [validS]

/-! ## Frames as they are encoded (R161) -/

theorem crcVerify_append_crcCompute (d : Bytes) : crcVerify (d ++ [crcCompute d]) = true :=
  (crcVerify_append_singleton d _).2 rfl

@[simp] theorem validN_encodeN (p : Bytes) : validN (encodeN p) = true :=
  (validN_append p _).trans (crcVerify_append_crcCompute p)

@[simp] theorem validS_encodeS (q : Byte) (p : Bytes) : validS (encodeS q p) = true :=
  (validS_cons_append q p _).trans (crcVerify_append_crcCompute (q :: p))

@[simp] theorem payloadN_encodeN (p : Bytes) : payloadN (encodeN p) = p :=
  payloadN_append p _

@[simp] theorem payloadS_encodeS (q : Byte) (p : Bytes) : payloadS (encodeS q p) = p :=
  payloadS_cons_append q p _

@[simp] theorem seqOf_encodeS (q : Byte) (p : Bytes) : seqOf (encodeS q p) = q := rfl

/-- Settles O19: taking the frame apart gives back the fields, and decoding keeps well-formed text. -/
theorem frameRoundTrip : Obligations.FrameRoundTrip := fun t q p => by
  rw [payloadS_encodeS, payloadN_encodeN]
  exact ⟨validS_encodeS q p, seqOf_encodeS q p, rfl, validN_encodeN p, rfl,
    fun h => ⟨textDec_of_utf8 t h, textDec_of_utf8 t h⟩⟩

/-! ## The operations (R172 to R175) -/

section
variable (s : State)

theorem exec_frmEnc (p : Bytes) : exec (.frmEnc p) s =
    .next (if p.length > s.cfg.frameMax - 1 then s.answer .errLen else s.ret (.frame (encodeN p))) := rfl

theorem exec_frmEncs (q : Byte) (p : Bytes) : exec (.frmEncs q p) s =
    .next (if p.length > s.cfg.frameMax - 2 then s.answer .errLen else s.ret (.frame (encodeS q p))) := rfl

theorem exec_frmDec (d : Bytes) : exec (.frmDec d) s =
    .next (if d.length < 1 then s.ret (.decoded false none)
      else s.ret (.decoded (validN d) (some (textDec s.cfg.textDec (payloadN d))))) := rfl

theorem exec_frmDecs (d : Bytes) : exec (.frmDecs d) s =
    .next (if d.length < 2 then s.ret (.decodedSeq false none none)
      else s.ret (.decodedSeq (validS d) (some (seqOf d)) (some (textDec s.cfg.textDec (payloadS d))))) := rfl

theorem exec_frmDec_nil : exec (.frmDec []) s = .next (s.ret (.decoded false none)) := by
  rw [exec_frmDec, if_pos (by decide)]

theorem exec_frmDec_append (p : Bytes) (c : Byte) : exec (.frmDec (p ++ [c])) s =
    .next (s.ret (.decoded (crcVerify (p ++ [c])) (some (textDec s.cfg.textDec p)))) := by
  rw [exec_frmDec, if_neg (by simp), validN_append, payloadN_append]

theorem exec_frmDecs_of_short {d : Bytes} (h : d.length < 2) :
    exec (.frmDecs d) s = .next (s.ret (.decodedSeq false none none)) := by
  rw [exec_frmDecs, if_pos h]

theorem exec_frmDecs_cons_append (q : Byte) (p : Bytes) (c : Byte) : exec (.frmDecs (q :: (p ++ [c]))) s =
    .next (s.ret (.decodedSeq (crcVerify (q :: (p ++ [c]))) (some q) (some (textDec s.cfg.textDec p)))) := by
  rw [exec_frmDecs, if_neg (by simp), validS_cons_append, seqOf_cons, payloadS_cons_append]

end

/-- Settles O18: each operation only answers, by the length test of its rule. -/
theorem frmOperationResults : Obligations.FrmOperationResults := fun s q c p =>
  ⟨fun h => by rw [exec_frmEnc, if_neg (Nat.not_lt.2 h)]; rfl,
    fun h => by rw [exec_frmEnc, if_pos h]; rfl,
    fun h => by rw [exec_frmEncs, if_neg (Nat.not_lt.2 h)]; rfl,
    fun h => by rw [exec_frmEncs, if_pos h]; rfl,
    exec_frmDec_nil s, exec_frmDec_append s p c, exec_frmDecs_of_short s (by decide),
    exec_frmDecs_of_short s (by simp), exec_frmDecs_cons_append s q p c⟩

/-! ## Classification (R168, R169) -/

theorem isAck_iff {t : TextDecSel} {d : Bytes} : isAck t d = true ↔
    2 ≤ d.length ∧ crcVerify d = true ∧ textDec t ((d.drop 1).take (d.length - 2)) = textAck := by
  simp [isAck, validS, payloadS_eq_take, and_assoc]

theorem isNak_iff {t : TextDecSel} {d : Bytes} : isNak t d = true ↔
    2 ≤ d.length ∧ crcVerify d = true ∧ textDec t ((d.drop 1).take (d.length - 2)) = textNak := by
  simp [isNak, validS, payloadS_eq_take, and_assoc]

theorem isAck_encodeS (t : TextDecSel) (q : Byte) (p : Bytes) :
    isAck t (encodeS q p) = decide (textDec t p = textAck) := by
  simp [isAck]

theorem isNak_encodeS (t : TextDecSel) (q : Byte) (p : Bytes) :
    isNak t (encodeS q p) = decide (textDec t p = textNak) := by
  simp [isNak]

/-- Text of bytes below `0x80` is well-formed. -/
theorem utf8_of_ascii {b : Bytes} (h : ∀ v ∈ b, v.toNat ≤ 0x7F) : Utf8 b := by
  induction b with
  | nil => exact .nil
  | cons v rest ih =>
    obtain ⟨hv, hrest⟩ := List.forall_mem_cons.1 h
    exact .char [v] rest (.one v hv) (ih hrest)

theorem textDec_textAck (t : TextDecSel) : textDec t textAck = textAck :=
  textDec_of_utf8 t (utf8_of_ascii (by decide))

theorem textDec_textNak (t : TextDecSel) : textDec t textNak = textNak :=
  textDec_of_utf8 t (utf8_of_ascii (by decide))

/-- Settles O21: `ACK` and `NAK` are well-formed, so every decoder keeps the two texts, which differ. -/
theorem controlFramesClassify : Obligations.ControlFramesClassify := fun t q d => by
  have htolerant : textDec .standard [0x41, 0xFF, 0x43, 0x4B] = textAck := by decide
  refine ⟨?_, ?_, ?_, ?_, ?_, isNak_iff, isAck_iff⟩
  · rw [ackFrame, isAck_encodeS, textDec_textAck, decide_eq_true rfl]
  · rw [ackFrame, isNak_encodeS, textDec_textAck, decide_eq_false (by decide)]
  · rw [nakFrame, isAck_encodeS, textDec_textNak, decide_eq_false (by decide)]
  · rw [nakFrame, isNak_encodeS, textDec_textNak, decide_eq_true rfl]
  · rw [isAck_encodeS, decide_eq_true htolerant]

end Sys2Proof.Machine
end

section
/-! PROOFS. The window test as an interval and as a distance test, and how many numbers it lets in (42_window_arith.md
R191 to R198): O22 to O25. -/

namespace Sys2Proof.Machine

variable {base low high m v : Nat}

/-! ## The interval (R191, R192, R194, R195) -/

/-- The two branches of the test, the wrapped one with the full ring in it. -/
theorem inWindow_iff : inWindow low high m v = true ↔
    v < m ∧ ((low < high ∧ low ≤ v ∧ v < high) ∨ (high ≤ low ∧ (low ≤ v ∨ v < high))) := by
  unfold inWindow
  split
  next hv => simp [Nat.not_lt.2 hv]
  next hv =>
    split
    next hlt => simp [Nat.lt_of_not_le hv, hlt, Nat.not_le.2 hlt]
    next hge => simp [Nat.lt_of_not_le hv, hge, Nat.le_of_not_lt hge]

theorem exec_winTest (low high m v : Nat) (s : State) :
    exec (.winTest low high m v) s = .next (s.ret (.truth (inWindow low high m v))) := rfl

/-- Settles O22: the answer is the interval test, and answering only adds an output. -/
theorem winTestAnswers : Obligations.WinTestAnswers := fun s low high m v _ _ => by
  rw [exec_winTest, Bool.eq_iff_iff.2 (inWindow_iff.trans decide_eq_true_iff.symm)]
  rfl

/-- Settles O23: equal bounds take the wrapped branch, whose two halves meet. -/
theorem fullRingAndOutsideValues : Obligations.FullRingAndOutsideValues :=
  ⟨fun low _ v _ hv => inWindow_iff.2 ⟨hv, .inr ⟨le_rfl, le_or_gt low v⟩⟩,
    fun _ _ _ _ hv => Bool.eq_false_iff.2 fun h => Nat.not_lt.2 hv (lt_of_inWindow h)⟩

/-! ## The numbers of the ring, counted by their distance -/

/-- Going once around the ring from any number meets every distance once. -/
theorem map_seqDist_range_perm (hb : base < m) :
    ((List.range m).map fun v => seqDist base v m).Perm (List.range m) := by
  have hnodup : ((List.range m).map fun v => seqDist base v m).Nodup :=
    List.nodup_range.map_on fun _ hj _ hk => (dist_eq_iff hb (List.mem_range.1 hj) (List.mem_range.1 hk)).1
  have hsub : ((List.range m).map fun v => seqDist base v m) ⊆ List.range m := by
    intro d hd
    obtain ⟨v, -, rfl⟩ := List.mem_map.1 hd
    exact List.mem_range.2 (Nat.mod_lt _ (by omega))
  exact (List.subperm_of_subset hnodup hsub).perm_of_length_le (by simp)

/-- As many numbers have a distance that passes a test as there are distances that pass it. -/
theorem length_filter_seqDist (hb : base < m) (p : Nat → Bool) :
    ((List.range m).filter fun v => p (seqDist base v m)).length = ((List.range m).filter p).length := by
  rw [← (map_seqDist_range_perm hb).filter p |>.length_eq, List.filter_map, List.length_map]
  rfl

theorem length_filter_range_between {a b : Nat} (hbm : b ≤ m) :
    ((List.range m).filter fun d => decide (a ≤ d) && decide (d < b)).length = b - a := by
  rw [← List.filter_filter, ← List.Ico.zero_bot, List.Ico.filter_lt, List.Ico.filter_le, List.Ico.length]
  omega

/-- A test that holds of the distances from `a` on and below `b` lets `b - a` numbers of the ring in. -/
theorem length_filter_of_seqDist_between {a b : Nat} {p : Nat → Bool} (hb : base < m) (hbm : b ≤ m)
    (hp : ∀ v < m, p v = true ↔ a ≤ seqDist base v m ∧ seqDist base v m < b) :
    ((List.range m).filter p).length = b - a := by
  have hcongr : ∀ v ∈ List.range m, p v = (decide (a ≤ seqDist base v m) && decide (seqDist base v m < b)) :=
    fun v hv => by rw [Bool.eq_iff_iff, hp v (List.mem_range.1 hv), Bool.and_eq_true, decide_eq_true_iff,
      decide_eq_true_iff]
  rw [List.filter_congr hcongr, length_filter_seqDist hb (fun d => decide (a ≤ d) && decide (d < b)),
    length_filter_range_between hbm]

/-! ## The distance test (R196) -/

theorem inWindow_iff_seqDist_lt (hl : low < m) (hh : high < m) (hne : high ≠ low) :
    inWindow low high m v = true ↔ v < m ∧ seqDist low v m < seqDist low high m := by
  have hpos : 0 < seqDist low high m :=
    Nat.pos_of_ne_zero fun h0 => hne ((dist_eq_iff hl hh hl).1 (h0.trans (dist_self low m).symm))
  have hlt : seqDist low high m < m := Nat.mod_lt _ (by omega)
  have hhigh : seqAdd low (seqDist low high m) m = high := add_dist low high m hl hh
  conv_lhs => rw [← hhigh]
  exact inWindow_from low _ m v hl hpos hlt

/-- Settles O24: a window of `w` numbers holds the distances below `w`; its lower bound is at distance 0, its upper at
distance `w`. -/
theorem windowHoldsExactlyItsSize : Obligations.WindowHoldsExactlyItsSize := by
  intro low w m hl hw hwm
  have hfrom : ∀ v, inWindow low ((low + w) % m) m v = true ↔ v < m ∧ seqDist low v m < w :=
    fun v => inWindow_from low w m v hl hw hwm
  have hlow : seqDist low low m = 0 := dist_self low m
  have hhigh : seqDist low ((low + w) % m) m = w := dist_add low w m hl hwm
  refine ⟨?_, ?_, ?_, fun high v hh hv hne => ?_⟩
  · exact Bool.eq_false_iff.2 fun h => ((hfrom _).1 h).2.ne hhigh
  · exact (hfrom low).2 ⟨hl, hlow.trans_lt hw⟩
  · exact length_filter_of_seqDist_between (a := 0) hl hwm.le fun v hv => by simp [hfrom, hv]
  · rw [inWindow_iff_seqDist_lt hl hh hne, and_iff_right hv]

/-! ## The two windows of Selective Repeat (R198) -/

/-- Settles O25: from the number expected on, the receive window holds the distances below `w` and the shadow window
those from `m - w` on, and `w ≤ m - w`. -/
theorem selectiveRepeatWindowsDisjoint : Obligations.SelectiveRepeatWindowsDisjoint := by
  intro oe w m hoe hw hwm
  have hreceive : ∀ v, inWindow oe (seqAdd oe w m) m v = true ↔ v < m ∧ seqDist oe v m < w :=
    fun v => inWindow_from oe w m v hoe hw (by omega)
  have hshadow : ∀ v, inWindow (seqSub oe w m) oe m v = true ↔ v < m ∧ m - w ≤ seqDist oe v m :=
    fun v => inWindow_before oe w m v hoe hw (by omega)
  constructor
  · rintro v ⟨hr, hs⟩
    have hnear := ((hreceive v).1 hr).2
    have hfar := ((hshadow v).1 hs).2
    omega
  · rw [length_filter_of_seqDist_between (a := w) (b := m - w) hoe (Nat.sub_le m w) fun v hv => ?_]
    · omega
    · simp only [Bool.and_eq_true, Bool.not_eq_true', Bool.eq_false_iff, ne_eq, hreceive, hshadow, hv, true_and, not_lt,
        not_le]

end Sys2Proof.Machine
end

section
/-! PROOFS. The stop-and-wait senders and receivers (43_stop_and_wait.md): what each operation of a working unit does
where it is enabled and where it is held, O33 to O38, and the clean exchange of R241, O40. -/

namespace Sys2Proof.Machine

variable {u : ProtUnit} {s t : State} {p d : Bytes}

/-! ## Enabled and held (60_exceptions.md R341) -/

theorem hostOperation_of_enabled {en : Bool} {body : State → State} (hw : Working u s) (hen : en = true) :
    hostOperation u en body s = .next (body s) := by
  rw [hostOperation_of_working u en body s hw, if_pos hen]

theorem hostOperation_of_held {en : Bool} {body : State → State} (hw : Working u s) (hen : en = false) :
    hostOperation u en body s = .next s :=
  hostOperation_of_not_accepts ((hostAccepts_eq_false_iff u en s).2 ⟨hw, hen⟩)

theorem eventOperation_of_enabled {en : Bool} {body : State → State} (hw : Working u s) (hen : en = true) :
    eventOperation u en body s = .next (body s) := by
  rw [eventOperation_of_working u en body s hw, if_pos hen]

theorem eventOperation_of_held {en : Bool} {body : State → State} (hw : Working u s) (hen : en = false) :
    eventOperation u en body s = .next s :=
  eventOperation_of_not_accepts ((eventAccepts_eq_false_iff u en s).2 (.inr (.inr ⟨hw, hen⟩)))

/-- Whether a unit works is read off its own registers and the configuration. -/
theorem Working.congr (hw : Working u s) (hu : SameUnit u s t) (hcfg : t.cfg = s.cfg) : Working u t := by
  cases u <;> simp only [SameUnit] at hu <;> simpa only [Working, State.flags, State.wf, hu, hcfg] using hw

/-! ## Tags, timers and bits -/

theorem idleTag_of_waitSend {tag : BitVec 2} (h : tag = waitSend) : idleTag tag = true := decide_eq_true h

theorem idleTag_of_waitAck {tag : BitVec 2} (h : tag = waitAck) : idleTag tag = false := by subst h; rfl

theorem waitingTag_of_waitAck {tag : BitVec 2} (h : tag = waitAck) : waitingTag tag = true := decide_eq_true h

theorem waitingTag_of_waitSend {tag : BitVec 2} (h : tag = waitSend) : waitingTag tag = false := by subst h; rfl

theorem Timer.expired_of_eq {x : Timer} (h : x = ⟨true, 0⟩) : x.expired = true := by subst h; rfl

theorem Timer.not_expired {x : Timer} (h : x.armed = false ∨ 0 < x.cnt) : x.expired = false := by
  rcases h with h | h
  · simp [Timer.expired, h]
  · simp [Timer.expired, h.ne']

/-- The rules' `1 - b` toggles the bit. -/
theorem one_sub_bit (b : BitVec 1) : 1 - b = ~~~b := by
  revert b
  decide

/-- Of two different bits, one is the other toggled. -/
theorem not_bit_of_ne {a b : BitVec 1} (h : a ≠ b) : ~~~b = a := by
  revert a b
  decide

/-- A sequence byte is the byte of a bit exactly if the two are the same number; `02` and above is no bit. -/
theorem eq_seqByte_iff {v : Byte} {b : BitVec 1} : v = seqByte b ↔ v.toNat = b.toNat := by
  rw [← BitVec.toNat_inj, seqByte, BitVec.toNat_setWidth_of_le (by decide)]

/-- Sending done, the bit is toggled (R221, R231). -/
theorem AltSender.advance_eq (a : AltSender) :
    a.advance = { a with state := waitSend, seq := ~~~a.seq, timer := timerCancel } := by
  rw [AltSender.advance, one_sub_bit]

/-! ## Two outputs in order -/

/-- A datagram is transmitted, then the host is answered. -/
theorem tx_answer (f : Bytes) (x : Status) : (s.tx u f).answer x =
    { s with outs := s.outs ++ [.tx u f, .ret (.status x)], wire := s.wire ++ [(u.peer, f)] } := by
  simp [State.answer, State.ret, State.emit, State.tx]

/-- A payload is delivered, then a datagram transmitted (D39). -/
theorem deliver_tx (f : Bytes) : (s.emit (.deliver u p)).tx u f =
    { s with outs := s.outs ++ [.deliver u p, .tx u f], wire := s.wire ++ [(u.peer, f)] } := by
  simp [State.emit, State.tx]

/-! ## NAK-only (R211 to R214) -/

theorem exec_swnsSend_of_waitSend (hw : Working .swns s) (hs : s.swns.state = waitSend) :
    exec (.swnsSend p) s = .next (if p.length > s.cfg.frameMax - 1 then s.answer .errLen
      else (State.tx { s with swns := { s.swns with
          txbuf := some (encodeN p), timer := timerStart s.cfg.tSwn, state := waitAck } }
        .swns (encodeN p)).answer .ok) := by
  dsimp only [exec]
  exact hostOperation_of_enabled hw (idleTag_of_waitSend hs)

theorem exec_swnsRx_of_waitAck (hw : Working .swns s) (hs : s.swns.state = waitAck) :
    exec (.swnsRx d) s = .next { s.txRegister .swns s.swns.txbuf with
      swns := { s.swns with timer := timerStart s.cfg.tSwn } } := by
  dsimp only [exec, execSwnsRx]
  rw [eventOperation_of_enabled hw (waitingTag_of_waitAck hs), txRegister_swns, txRegister_cfg]

/-- Settles O33: each operation is its rule's body where it is enabled and no step where it is held; only an empty
`txbuf` leaves free what is handed over. -/
theorem nakOnlySender : Obligations.NakOnlySender := by
  intro s p d hw
  refine ⟨fun hs hp => ?_, fun hs hp => ?_, fun hs => ?_, fun hs f hf => ?_, fun hs => ?_, fun hs hnone => ?_,
    fun ht => ?_, fun ht => ?_⟩
  · rw [exec_swnsSend_of_waitSend hw hs, if_neg (Nat.not_lt.2 hp), tx_answer]
    rfl
  · rw [exec_swnsSend_of_waitSend hw hs, if_pos hp]
    rfl
  · dsimp only [exec]
    exact hostOperation_of_held hw (idleTag_of_waitAck hs)
  · rw [exec_swnsRx_of_waitAck hw hs, hf]
    rfl
  · dsimp only [exec]
    exact eventOperation_of_held hw (waitingTag_of_waitSend hs)
  · obtain ⟨new, n, hnew, hstate⟩ := txRegister_none s .swns
    exact ⟨new, n, hnew, by rw [exec_swnsRx_of_waitAck hw hs, hnone, hstate]; rfl⟩
  · dsimp only [exec]
    exact eventOperation_of_enabled hw (Timer.expired_of_eq ht)
  · dsimp only [exec]
    exact eventOperation_of_held hw (Timer.not_expired ht)

theorem exec_swnrRx_of_working (hw : Working .swnr s) : exec (.swnrRx d) s = .next (if validN d then
    s.emit (.deliver .swnr (textDec s.cfg.textDec (payloadN d))) else s.tx .swnr nak0Frame) := by
  dsimp only [exec]
  exact eventOperation_of_enabled hw rfl

/-- Settles O34: the length test and the checksum test of R163 together are validity. -/
theorem nakOnlyReceiver : Obligations.NakOnlyReceiver := by
  intro s d hw
  refine ⟨fun hlen hcrc => ?_, fun hbad => ?_⟩
  · have hvalid : validN d = true := by simp [validN, hlen, hcrc]
    rw [exec_swnrRx_of_working hw, if_pos hvalid]
    rfl
  · have hinvalid : ¬ validN d = true := by
      rcases hbad with h | h <;> simp [validN, h]
    rw [exec_swnrRx_of_working hw, if_neg hinvalid]
    rfl

/-! ## Alternating-bit (R220 to R223) -/

theorem exec_abpsSend_of_waitSend (hw : Working .abps s) (hs : s.abps.state = waitSend) :
    exec (.abpsSend p) s = .next (if p.length > s.cfg.frameMax - 2 then s.answer .errLen
      else (State.tx { s with abps := s.abps.load (encodeS (seqByte s.abps.seq) p) s.cfg.tAbp }
        .abps (encodeS (seqByte s.abps.seq) p)).answer .ok) := by
  dsimp only [exec]
  exact hostOperation_of_enabled hw (idleTag_of_waitSend hs)

theorem exec_abpsRx_of_waitAck (hw : Working .abps s) (hs : s.abps.state = waitAck) :
    exec (.abpsRx d) s = .next (if isAck s.cfg.textDec d = true ∧ seqOf d = seqByte s.abps.seq then
      State.emit { s with abps := s.abps.advance } (.done .abps .ok) else s) := by
  dsimp only [exec, execAbpsRx]
  rw [eventOperation_of_enabled hw (waitingTag_of_waitAck hs)]
  simp only [Bool.and_eq_true, decide_eq_true_eq]

theorem exec_abpsTmo_of_expired (hw : Working .abps s) (ht : s.abps.timer = ⟨true, 0⟩) :
    exec .abpsTmo s = .next { s.txRegister .abps s.abps.txbuf with abps := s.abps.restart s.cfg.tAbp } := by
  dsimp only [exec, execAbpsTmo]
  rw [eventOperation_of_enabled hw (Timer.expired_of_eq ht), txRegister_abps, txRegister_cfg]

/-- Settles O35: of the datagrams received only the acknowledgment of the current bit counts. -/
theorem alternatingBitSender : Obligations.AlternatingBitSender := by
  intro s p d hw
  refine ⟨fun hs hp f hf => ?_, fun hs hp => ?_, fun hs => ?_, fun hs hack hseq => ?_, fun hother => ?_,
    fun ht f hf => ?_, fun ht hnone => ?_, fun ht => ?_⟩
  · subst hf
    rw [exec_abpsSend_of_waitSend hw hs, if_neg (Nat.not_lt.2 hp), tx_answer]
    rfl
  · rw [exec_abpsSend_of_waitSend hw hs, if_pos hp]
    rfl
  · dsimp only [exec]
    exact hostOperation_of_held hw (idleTag_of_waitAck hs)
  · rw [exec_abpsRx_of_waitAck hw hs, if_pos ⟨hack, eq_seqByte_iff.2 hseq⟩, AltSender.advance_eq]
    rfl
  · by_cases hs : s.abps.state = waitAck
    · have hno : ¬ (isAck s.cfg.textDec d = true ∧ seqOf d = seqByte s.abps.seq) := by
        rintro ⟨hack, hseq⟩
        rcases hother with hsend | hnack | hne
        · cases hs.symm.trans hsend
        · cases hack.symm.trans hnack
        · exact hne (eq_seqByte_iff.1 hseq)
      rw [exec_abpsRx_of_waitAck hw hs, if_neg hno]
    · dsimp only [exec]
      exact eventOperation_of_held hw (decide_eq_false hs)
  · rw [exec_abpsTmo_of_expired hw ht, hf]
    rfl
  · obtain ⟨new, n, hnew, hstate⟩ := txRegister_none s .abps
    exact ⟨new, n, hnew, by rw [exec_abpsTmo_of_expired hw ht, hnone, hstate]; rfl⟩
  · dsimp only [exec]
    exact eventOperation_of_held hw (Timer.not_expired ht)

theorem exec_abprRx_of_working (hw : Working .abpr s) : exec (.abprRx d) s =
    .next (if validS d = true ∧ seqOf d = seqByte s.abpr.expected then
      { State.tx (s.emit (.deliver .abpr (textDec s.cfg.textDec (payloadS d)))) .abpr
          (ackFrame (seqByte s.abpr.expected)) with abpr := { s.abpr with expected := ~~~s.abpr.expected } }
      else s.tx .abpr (ackFrame (seqByte (~~~s.abpr.expected)))) := by
  dsimp only [exec, execAbprRx]
  rw [eventOperation_of_enabled hw rfl]
  simp only [Bool.and_eq_true, decide_eq_true_eq, one_sub_bit, tx_abpr, emit_abpr]

/-- Settles O36: a frame is new if it is valid and its number is the expected one; otherwise it is answered only. -/
theorem alternatingBitReceiver : Obligations.AlternatingBitReceiver := by
  intro s d hw
  refine ⟨fun hvalid hseq => ?_, fun hother => ?_⟩
  · rw [exec_abprRx_of_working hw, if_pos ⟨hvalid, eq_seqByte_iff.2 hseq⟩, deliver_tx]
    rfl
  · have hno : ¬ (validS d = true ∧ seqOf d = seqByte s.abpr.expected) := by
      rintro ⟨hvalid, hseq⟩
      rcases hother with hinvalid | hne
      · cases hvalid.symm.trans hinvalid
      · exact hne (eq_seqByte_iff.1 hseq)
    rw [exec_abprRx_of_working hw, if_neg hno]
    rfl

/-! ## Positive and negative acknowledgment (R230 to R233) -/

theorem exec_pnasSend_of_waitSend (hw : Working .pnas s) (hs : s.pnas.state = waitSend) :
    exec (.pnasSend p) s = .next (if p.length > s.cfg.frameMax - 2 then s.answer .errLen
      else (State.tx { s with pnas := s.pnas.load (encodeS (seqByte s.pnas.seq) p) s.cfg.tPna }
        .pnas (encodeS (seqByte s.pnas.seq) p)).answer .ok) := by
  dsimp only [exec]
  exact hostOperation_of_enabled hw (idleTag_of_waitSend hs)

theorem exec_pnasRx_of_waitAck (hw : Working .pnas s) (hs : s.pnas.state = waitAck) :
    exec (.pnasRx d) s = .next (if isAck s.cfg.textDec d = true then
      State.emit { s with pnas := s.pnas.advance } (.done .pnas .ok)
      else { s.txRegister .pnas s.pnas.txbuf with pnas := s.pnas.restart s.cfg.tPna }) := by
  dsimp only [exec, execPnasRx]
  rw [eventOperation_of_enabled hw (waitingTag_of_waitAck hs), txRegister_pnas, txRegister_cfg]

theorem exec_pnasTmo_of_expired (hw : Working .pnas s) (ht : s.pnas.timer = ⟨true, 0⟩) :
    exec .pnasTmo s = .next { s.txRegister .pnas s.pnas.txbuf with pnas := s.pnas.restart s.cfg.tPna } := by
  dsimp only [exec, execPnasTmo]
  rw [eventOperation_of_enabled hw (Timer.expired_of_eq ht), txRegister_pnas, txRegister_cfg]

/-- Settles O37: whatever is no acknowledgment has the effect of a timeout. -/
theorem posNegSender : Obligations.PosNegSender := by
  intro s p d hw
  refine ⟨fun hs hp f hf => ?_, fun hs hp => ?_, fun hs => ?_, fun hs hack => ?_, fun hs hnack f hf => ?_,
    fun hs => ?_, fun hs hnack hnone => ?_, fun ht hnone => ?_, fun ht f hf => ?_, fun ht => ?_⟩
  · subst hf
    rw [exec_pnasSend_of_waitSend hw hs, if_neg (Nat.not_lt.2 hp), tx_answer]
    rfl
  · rw [exec_pnasSend_of_waitSend hw hs, if_pos hp]
    rfl
  · dsimp only [exec]
    exact hostOperation_of_held hw (idleTag_of_waitAck hs)
  · rw [exec_pnasRx_of_waitAck hw hs, if_pos hack, AltSender.advance_eq]
    rfl
  · rw [exec_pnasRx_of_waitAck hw hs, if_neg (Bool.eq_false_iff.1 hnack), hf]
    rfl
  · dsimp only [exec]
    exact eventOperation_of_held hw (waitingTag_of_waitSend hs)
  · obtain ⟨new, n, hnew, hstate⟩ := txRegister_none s .pnas
    refine ⟨new, n, hnew, ?_⟩
    rw [exec_pnasRx_of_waitAck hw hs, if_neg (Bool.eq_false_iff.1 hnack), hnone, hstate]
    rfl
  · obtain ⟨new, n, hnew, hstate⟩ := txRegister_none s .pnas
    exact ⟨new, n, hnew, by rw [exec_pnasTmo_of_expired hw ht, hnone, hstate]; rfl⟩
  · rw [exec_pnasTmo_of_expired hw ht, hf]
    rfl
  · dsimp only [exec]
    exact eventOperation_of_held hw (Timer.not_expired ht)

theorem exec_pnarRx_of_working (hw : Working .pnar s) : exec (.pnarRx d) s =
    .next (if validS d = false then s.tx .pnar (nakFrame (seqByte s.pnar.expected))
      else if seqOf d = seqByte s.pnar.expected then
      { State.tx (s.emit (.deliver .pnar (textDec s.cfg.textDec (payloadS d)))) .pnar
          (ackFrame (seqByte s.pnar.expected)) with pnar := { s.pnar with expected := ~~~s.pnar.expected } }
      else s.tx .pnar (ackFrame (seqOf d))) := by
  dsimp only [exec, execPnarRx]
  rw [eventOperation_of_enabled hw rfl]
  simp only [Bool.not_eq_true', one_sub_bit, tx_pnar, emit_pnar]

/-- Settles O38: three cases in the order of R348, the checksum before the number. -/
theorem posNegReceiver : Obligations.PosNegReceiver := by
  intro s d hw
  refine ⟨fun hinvalid => ?_, fun hvalid hseq => ?_, fun hvalid hne => ?_⟩
  · rw [exec_pnarRx_of_working hw, if_pos hinvalid]
    rfl
  · rw [exec_pnarRx_of_working hw, if_neg (ne_false_of_eq_true hvalid), if_pos (eq_seqByte_iff.2 hseq), deliver_tx]
    rfl
  · rw [exec_pnarRx_of_working hw, if_neg (ne_false_of_eq_true hvalid), if_neg (mt eq_seqByte_iff.1 hne)]
    rfl

/-! ## A clean exchange (R241) -/

/-- The reply `Ack(s)` counts as an acknowledgment under every text decoder (41_frame_codec.md R168, R169). -/
theorem isAck_ackFrame (c : TextDecSel) (q : Byte) : isAck c (ackFrame q) = true :=
  (controlFramesClassify c q []).1

/-- The number of a frame sent with a bit is that bit's. -/
theorem seqOf_encodeS_seqByte_eq_iff {b e : BitVec 1} :
    (seqOf (encodeS (seqByte b) p)).toNat = e.toNat ↔ b = e := by
  rw [← BitVec.toNat_inj, ← eq_seqByte_iff.1 (seqOf_encodeS (seqByte b) p)]

/-- The receiver answers an unchanged frame with the acknowledgment of the frame's own bit: of the expected one if the
frame is new, of the other one if it is a duplicate (R223). -/
theorem abpr_acknowledges_frame (hw : Working .abpr s) (b : BitVec 1) (p : Bytes) :
    ∃ t, exec (.abprRx (encodeS (seqByte b) p)) s = .next t ∧
      t.wire = s.wire ++ [(.abps, ackFrame (seqByte b))] := by
  obtain ⟨hnew, hother⟩ := alternatingBitReceiver s (encodeS (seqByte b) p) hw
  by_cases hb : b = s.abpr.expected
  · subst hb
    exact ⟨_, hnew (validS_encodeS _ _) (seqOf_encodeS_seqByte_eq_iff.2 rfl), rfl⟩
  · refine ⟨_, hother (.inr (mt seqOf_encodeS_seqByte_eq_iff.1 hb)), ?_⟩
    rw [not_bit_of_ne hb]
    rfl

/-- So does the receiver of the other variant: a valid frame with another number draws its own acknowledgment (R233). -/
theorem pnar_acknowledges_frame (hw : Working .pnar s) (b : BitVec 1) (p : Bytes) :
    ∃ t, exec (.pnarRx (encodeS (seqByte b) p)) s = .next t ∧
      t.wire = s.wire ++ [(.pnas, ackFrame (seqByte b))] := by
  obtain ⟨-, hnew, hother⟩ := posNegReceiver s (encodeS (seqByte b) p) hw
  by_cases hb : b = s.pnar.expected
  · subst hb
    exact ⟨_, hnew (validS_encodeS _ _) (seqOf_encodeS_seqByte_eq_iff.2 rfl), rfl⟩
  · exact ⟨_, hother (validS_encodeS _ _) (mt seqOf_encodeS_seqByte_eq_iff.1 hb), rfl⟩

/-- Settles O40: the receiver acknowledges the frame's own bit, new or duplicate, leaves the sender's registers alone,
and that acknowledgment is the one the sender waits for. -/
theorem cleanExchangeCompletesTheSend : Obligations.CleanExchangeCompletesTheSend := by
  refine ⟨fun s p hsend hrecv hwait _ => ?_, fun s p hsend hrecv hwait _ => ?_⟩
  · obtain ⟨t, hrx, hwire⟩ := abpr_acknowledges_frame hrecv s.abps.seq p
    have habps : t.abps = s.abps := exec_sameUnit (u := .abps) (by simp [instrUnit]) (by simp) hrx
    obtain ⟨-, -, -, hack, -⟩ := alternatingBitSender t [] (ackFrame (seqByte s.abps.seq))
      (hsend.congr habps (exec_cfg hrx))
    rw [habps] at hack
    exact ⟨t, _, _, hrx, hwire, hack hwait (isAck_ackFrame _ _) (eq_seqByte_iff.1 rfl), rfl, rfl, rfl⟩
  · obtain ⟨t, hrx, hwire⟩ := pnar_acknowledges_frame hrecv s.pnas.seq p
    have hpnas : t.pnas = s.pnas := exec_sameUnit (u := .pnas) (by simp [instrUnit]) (by simp) hrx
    obtain ⟨-, -, -, hack, -⟩ := posNegSender t [] (ackFrame (seqByte s.pnas.seq))
      (hsend.congr hpnas (exec_cfg hrx))
    rw [hpnas] at hack
    exact ⟨t, _, _, hrx, hwire, hack hwait (isAck_ackFrame _ _), rfl, rfl, rfl⟩

end Sys2Proof.Machine
end

section
/-! PROOFS. The Go-Back-N sender and receiver (44_go_back_n.md R261 to R265): what each operation of a working unit
does, O41 to O45, and the run of R266, O46. `CANSEND` of `SRS` (45_selective_repeat.md R291) is answered here too. -/

namespace Sys2Proof.Machine

variable {s t : State} {p d : Bytes}

theorem Working.gbns_legal (hw : Working .gbns s) :
    s.gbns.oldestUnacked < s.cfg.gbnMax ∧ s.gbns.nextToSend < s.cfg.gbnMax := by
  obtain ⟨-, -, hwf⟩ := hw
  exact gbn_legal hwf

/-! ## CANSEND (R261, R291) -/

theorem exec_gbnsCansend_of_working (hw : Working .gbns s) :
    exec .gbnsCansend s = .next (s.ret (.truth (gbnCanSend s))) := by
  dsimp only [exec]
  exact hostOperation_of_enabled hw rfl

theorem exec_srsCansend_of_working (hw : Working .srs s) :
    exec .srsCansend s = .next (s.ret (.truth (srCanSend s))) := by
  dsimp only [exec]
  exact hostOperation_of_enabled hw rfl

theorem gbnCanSend_eq (hv : s.cfg.valid = true) (hw : Working .gbns s) :
    gbnCanSend s = decide (gbnInFlight s < s.cfg.gbnW) := by
  obtain ⟨-, -, hwf⟩ := hw
  exact Bool.eq_iff_iff.2 ((gbnCanSend_iff hv hwf).trans decide_eq_true_iff.symm)

theorem srCanSend_eq (hv : s.cfg.valid = true) (hw : Working .srs s) :
    srCanSend s = decide (srInFlight s < s.cfg.srW) := by
  obtain ⟨-, -, hwf⟩ := hw
  exact Bool.eq_iff_iff.2 ((srCanSend_iff hv hwf).trans decide_eq_true_iff.symm)

/-- Settles O41: the answer is the window test, which counts the numbers in flight. -/
theorem cansendAnswers : Obligations.CansendAnswers := fun s hv =>
  ⟨fun hw => ⟨exec_gbnsCansend_of_working hw, by rw [exec_gbnsCansend_of_working hw, gbnCanSend_eq hv hw]; rfl⟩,
    fun hw => ⟨exec_srsCansend_of_working hw, by rw [exec_srsCansend_of_working hw, srCanSend_eq hv hw]; rfl⟩⟩

/-! ## SEND (R262) -/

theorem exec_gbnsSend_of_room (hw : Working .gbns s) (hroom : gbnCanSend s = true) :
    exec (.gbnsSend p) s = .next (if p.length > s.cfg.frameMax - 2 then s.answer .errLen
      else (State.tx { s with gbns := { s.gbns with
          frames := memWrite s.gbns.frames s.gbns.nextToSend (some (encodeS (zext8 s.gbns.nextToSend) p))
          nextToSend := seqInc s.gbns.nextToSend s.cfg.gbnMax
          timer := if s.gbns.oldestUnacked = s.gbns.nextToSend then timerStart s.cfg.tGbn else s.gbns.timer } }
        .gbns (encodeS (zext8 s.gbns.nextToSend) p)).answer .ok) := by
  dsimp only [exec]
  exact hostOperation_of_enabled hw hroom

/-- Settles O42: with room the frame goes into the slot of its number; with a full window the operation is held. -/
theorem gbnsSendEffect : Obligations.GbnsSendEffect := by
  rintro s p f hw hv rfl
  have hcan := gbnCanSend_eq hv hw
  refine ⟨fun hroom hp => ?_, fun hroom hp => ?_, fun hfull => ?_⟩
  · refine ⟨_, ?_, (memRead_memWrite s.gbns.frames _ _ _).trans (if_pos rfl),
      fun k hk => (memRead_memWrite _ _ _ _).trans (if_neg hk)⟩
    rw [exec_gbnsSend_of_room hw (hcan.trans (decide_eq_true hroom)), if_neg (Nat.not_lt.2 hp), tx_answer]
    rfl
  · rw [exec_gbnsSend_of_room hw (hcan.trans (decide_eq_true hroom)), if_pos hp]
    rfl
  · dsimp only [exec]
    exact hostOperation_of_held hw (hcan.trans (decide_eq_false (Nat.not_lt.2 hfull)))

/-! ## RX of the sender (R263) -/

theorem exec_gbnsRx_of_working (hw : Working .gbns s) : exec (.gbnsRx d) s =
    .next (if isAck s.cfg.textDec d = true ∧ (seqOf d).toNat < s.cfg.gbnMax ∧
        (memRead s.gbns.frames (seqOf d).toNat).isSome = true then
      { s with gbns := s.gbns.acknowledge (seqOf d).toNat s.cfg.gbnMax s.cfg.tGbn } else s) := by
  dsimp only [exec, execGbnsRx]
  rw [eventOperation_of_enabled hw rfl]
  simp only [Bool.and_eq_true, decide_eq_true_eq, and_assoc]

/-- Settles O43: the clearing loop stops at the number acknowledged, which is in flight; an ACK of any other number
fails the test before the loop. -/
theorem gbnsAckIsCumulative : Obligations.GbnsAckIsCumulative := by
  rintro s d q hw rfl
  obtain ⟨hbase, -⟩ := hw.gbns_legal
  refine ⟨fun hack hq hslot => ?_, fun hother => ?_⟩
  · refine ⟨_, ?_, fun k => memRead_clearThrough s.cfg.gbnMax _ _ s.gbns.frames k hbase hq⟩
    rw [exec_gbnsRx_of_working hw, if_pos ⟨hack, hq, hslot⟩]
    rfl
  · rw [exec_gbnsRx_of_working hw, if_neg]
    rintro ⟨hack, hq, hslot⟩
    rcases hother with hnack | hge | hempty
    · cases hack.symm.trans hnack
    · exact Nat.not_lt.2 hge hq
    · rw [hempty] at hslot
      cases hslot

/-! ## TMO (R264) -/

/-- Settles O44: the loop collects the frames at the distances below the number in flight. -/
theorem gbnsTimeoutResendsTheWindow : Obligations.GbnsTimeoutResendsTheWindow := by
  rintro s fs hw rfl
  obtain ⟨hbase, hnext⟩ := hw.gbns_legal
  refine ⟨fun ht => ?_, fun ht => ?_⟩
  · dsimp only [exec, execGbnsTmo]
    rw [eventOperation_of_enabled hw (Timer.expired_of_eq ht), txAll_eq, framesFrom_eq _ _ _ _ hbase hnext]
    rfl
  · dsimp only [exec]
    exact eventOperation_of_held hw (Timer.not_expired ht)

/-! ## RX of the receiver (R265) -/

theorem exec_gbnrRx_of_working (hw : Working .gbnr s) : exec (.gbnrRx d) s =
    .next (if validS d = true ∧ (seqOf d).toNat = s.gbnr.expected then
      { State.tx (s.emit (.deliver .gbnr (textDec s.cfg.textDec (payloadS d)))) .gbnr
          (ackFrame (zext8 s.gbnr.expected)) with gbnr := { s.gbnr with
            lastAck := some (ackFrame (zext8 s.gbnr.expected))
            expected := seqInc s.gbnr.expected s.cfg.gbnMax } }
      else s.txSlot .gbnr s.gbnr.lastAck) := by
  dsimp only [exec, execGbnrRx]
  rw [eventOperation_of_enabled hw rfl]
  simp only [Bool.and_eq_true, decide_eq_true_eq, tx_gbnr, tx_cfg, emit_gbnr, emit_cfg]

theorem exec_gbnrRx_of_unexpected (hw : Working .gbnr s)
    (hother : validS d = false ∨ (seqOf d).toNat ≠ s.gbnr.expected) :
    exec (.gbnrRx d) s = .next (s.txSlot .gbnr s.gbnr.lastAck) := by
  rw [exec_gbnrRx_of_working hw, if_neg]
  rintro ⟨hvalid, hseq⟩
  rcases hother with hinvalid | hne
  · cases hvalid.symm.trans hinvalid
  · exact hne hseq

/-- Settles O45: only a valid frame with the expected number is new; any other datagram repeats the last
acknowledgment, if there is one. -/
theorem gbnReceiver : Obligations.GbnReceiver := by
  rintro s d a hw rfl
  refine ⟨fun hvalid hseq => ?_, fun hother hnone => ?_, fun hother b hb => ?_⟩
  · rw [exec_gbnrRx_of_working hw, if_pos ⟨hvalid, hseq⟩, deliver_tx]
    rfl
  · rw [exec_gbnrRx_of_unexpected hw hother, hnone, txSlot_none]
  · rw [exec_gbnrRx_of_unexpected hw hother, hb]
    rfl

/-! ## Runs of TICK and TMO -/

/-- A tick counts an armed timer down, and an expired one stays at 0 (60_exceptions.md R353). -/
theorem Timer.tick_armed_eq (T : Nat) : Timer.tick ⟨true, T⟩ = ⟨true, T - 1⟩ := by
  cases T <;> rfl

theorem exec_gbnsTick_of_working (hw : Working .gbns s) :
    exec .gbnsTick s = .next { s with gbns := { s.gbns with timer := s.gbns.timer.tick } } := by
  dsimp only [exec]
  exact eventOperation_of_enabled hw rfl

theorem execAll_gbnsTick (n : Nat) {T : Nat} (hw : Working .gbns s) (ht : s.gbns.timer = ⟨true, T⟩) :
    execAll (List.replicate n .gbnsTick) s = .next { s with gbns := { s.gbns with timer := ⟨true, T - n⟩ } } := by
  induction n generalizing s T with
  | zero => rw [Nat.sub_zero, ← ht]; rfl
  | succ n ih =>
    rw [List.replicate_succ, execAll_cons (exec_gbnsTick_of_working hw), ht, Timer.tick_armed_eq, Nat.add_comm n 1,
      ← Nat.sub_sub]
    exact ih hw rfl

/-- Left alone for as long as its timer was started for, `GBNS` transmits the frames in flight again. -/
theorem execAll_gbnsTick_gbnsTmo {T : Nat} (hw : Working .gbns s) (ht : s.gbns.timer = ⟨true, T⟩) :
    ∃ u, execAll (List.replicate T .gbnsTick ++ [.gbnsTmo]) s = .next u ∧
      u.outs = s.outs ++ ((List.range (gbnInFlight s)).filterMap fun j =>
        memRead s.gbns.frames ((s.gbns.oldestUnacked + j) % s.cfg.gbnMax)).map fun f => .tx .gbns f := by
  have hticks := execAll_gbnsTick T hw ht
  rw [Nat.sub_self] at hticks
  obtain ⟨hresend, -⟩ := gbnsTimeoutResendsTheWindow
    { s with gbns := { s.gbns with timer := ⟨true, 0⟩ } } _ hw rfl
  exact ⟨_, (execAll_append hticks _).trans (execAll_cons (hresend rfl) []), rfl⟩

/-! ## Payloads sent from number 0 on (R266) -/

/-- Short of the wrap, the distance is the difference (42_window_arith.md R190). -/
theorem dist_of_le {base k m : Nat} (hle : base ≤ k) (hk : k < m) : (k + m - base) % m = k - base := by
  rw [Nat.sub_add_comm hle, Nat.add_mod_right, Nat.mod_eq_of_lt (by omega)]

/-- `GBNS` has sent the payloads `ps` from number 0 on, those before number `b` are acknowledged, and each of the others
has its frame in the slot of its number. -/
structure GbnsHolds (s : State) (ps : List Bytes) (b : Nat) : Prop where
  working : Working .gbns s
  base : s.gbns.oldestUnacked = b
  next : s.gbns.nextToSend = ps.length
  base_le : b ≤ ps.length
  slots : ∀ k, memRead s.gbns.frames k = if k < b then none else ps[k]?.map (encodeS (zext8 k))

namespace GbnsHolds

variable {ps : List Bytes} {b n : Nat}

theorem length_lt (h : GbnsHolds s ps b) : ps.length < s.cfg.gbnMax := by
  obtain ⟨-, hnext⟩ := h.working.gbns_legal
  rwa [← h.next]

theorem inFlight (h : GbnsHolds s ps b) : gbnInFlight s = ps.length - b := by
  rw [gbnInFlight, h.base, h.next, dist_of_le h.base_le h.length_lt]

/-- With room, `SEND` puts one more payload in flight. -/
theorem send (h : GbnsHolds s ps b) (hv : s.cfg.valid = true) (hroom : ps.length < s.cfg.gbnW)
    (hp : p.length ≤ s.cfg.frameMax - 2) :
    ∃ t, exec (.gbnsSend p) s = .next t ∧ t.cfg = s.cfg ∧ GbnsHolds t (ps ++ [p]) b := by
  obtain ⟨-, hwm⟩ := gbnW_of_valid hv
  obtain ⟨hfault, hopen, -⟩ := h.working
  obtain ⟨hbase, -⟩ := h.working.gbns_legal
  have hle := h.base_le
  have hinc : (s.gbns.nextToSend + 1) % s.cfg.gbnMax = ps.length + 1 := by
    rw [h.next, Nat.mod_eq_of_lt (by omega)]
  obtain ⟨hsend, -⟩ := gbnsSendEffect s p _ h.working hv rfl
  obtain ⟨a, hexec, hnew, hold⟩ := hsend (by rw [h.inFlight]; omega) hp
  rw [h.next] at hnew hold
  refine ⟨_, hexec, rfl, ⟨hfault, hopen, ?_⟩, h.base, ?_, ?_, fun k => ?_⟩
  · simp only [State.wf, hinc, Bool.and_eq_true, decide_eq_true_eq]
    omega
  · simp only [hinc, List.length_append, List.length_singleton]
  · simp only [List.length_append]
    omega
  · dsimp only
    rcases Nat.lt_trichotomy k ps.length with hk | rfl | hk
    · rw [hold k hk.ne, h.slots, List.getElem?_append_left hk]
    · rw [hnew, if_neg (Nat.not_lt.2 hle), List.getElem?_concat_length]
      rfl
    · rw [hold k hk.ne', h.slots, List.getElem?_eq_none hk.le, List.getElem?_eq_none (by simpa using hk)]

theorem execAll_send (h : GbnsHolds s ps b) (hv : s.cfg.valid = true) (qs : List Bytes)
    (hroom : ps.length + qs.length ≤ s.cfg.gbnW) (hfit : ∀ q ∈ qs, q.length ≤ s.cfg.frameMax - 2) :
    ∃ t, execAll (qs.map .gbnsSend) s = .next t ∧ t.cfg = s.cfg ∧ GbnsHolds t (ps ++ qs) b := by
  induction qs generalizing s ps with
  | nil => exact ⟨s, rfl, rfl, by simpa using h⟩
  | cons q qs ih =>
    obtain ⟨hq, hqs⟩ := List.forall_mem_cons.1 hfit
    rw [List.length_cons] at hroom
    obtain ⟨r, hexec, hcfg, hr⟩ := h.send hv (by omega) hq
    have hroom' : (ps ++ [q]).length + qs.length ≤ r.cfg.gbnW := by
      rw [hcfg, List.length_append, List.length_singleton]
      omega
    obtain ⟨t, hrun, hcfg', ht⟩ := ih hr (by rwa [hcfg]) hroom' (by rwa [hcfg])
    exact ⟨t, (execAll_cons hexec _).trans hrun, hcfg'.trans hcfg, by simpa using ht⟩

/-- An `Ack` of a number in flight, not the last, acknowledges everything through it and restarts the timer. -/
theorem acknowledge (h : GbnsHolds s ps b) (hack : isAck s.cfg.textDec d = true) (hd : n = (seqOf d).toNat)
    (hbn : b ≤ n) (hn : n + 1 < ps.length) :
    ∃ t, exec (.gbnsRx d) s = .next t ∧ t.cfg = s.cfg ∧ t.gbns.timer = ⟨true, s.cfg.tGbn⟩ ∧ GbnsHolds t ps (n + 1) := by
  have hlt := h.length_lt
  obtain ⟨hfault, hopen, -⟩ := h.working
  obtain ⟨hrx, -⟩ := gbnsAckIsCumulative s d n h.working hd
  have hslot : (memRead s.gbns.frames n).isSome = true := by
    rw [h.slots, if_neg (Nat.not_lt.2 hbn), List.getElem?_eq_getElem (by omega)]
    rfl
  obtain ⟨a, hexec, hread⟩ := hrx hack (by omega) hslot
  have hinc : (n + 1) % s.cfg.gbnMax = n + 1 := Nat.mod_eq_of_lt (by omega)
  refine ⟨_, hexec, rfl, if_neg (by rw [hinc, h.next]; exact hn.ne), ⟨hfault, hopen, ?_⟩, hinc, h.next, hn.le,
    fun k => ?_⟩
  · simp only [State.wf, hinc, h.next, Bool.and_eq_true, decide_eq_true_eq]
    omega
  · dsimp only
    rw [hread, h.base, dist_of_le hbn (by omega), h.slots]
    by_cases hkn : k < n + 1
    · rw [if_pos hkn]
      by_cases hkb : k < b
      · rw [if_pos hkb, ite_self]
      · rw [if_pos ⟨by omega, by rw [dist_of_le (by omega) (by omega)]; omega⟩]
    · rw [if_neg hkn, if_neg (show ¬ k < b by omega), if_neg]
      rintro ⟨hk, hdist⟩
      rw [dist_of_le (by omega) hk] at hdist
      omega

end GbnsHolds

/-- Settles O46: the run sends four frames, acknowledges through number 2, and then waits for the timer. -/
theorem goBackNCumulativeScenario : Obligations.GoBackNCumulativeScenario := by
  intro s p0 p1 p2 p3 hw hv hwindow hbase hnext hframes h0 h1 h2 h3
  have hstart : GbnsHolds s [] 0 := ⟨hw, hbase, hnext, le_rfl, fun k => by rw [hframes]; rfl⟩
  obtain ⟨r, hsend, hcfg, hr⟩ := hstart.execAll_send hv [p0, p1, p2, p3] hwindow (by simp [h0, h1, h2, h3])
  obtain ⟨t, hrx, hcfg', htimer, ht⟩ :=
    hr.acknowledge (isAck_ackFrame _ 2) (n := 2) rfl (Nat.zero_le 2) (by simp)
  rw [hcfg] at hcfg' htimer
  obtain ⟨u, hresend, houts⟩ := execAll_gbnsTick_gbnsTmo ht.working htimer
  have hslot : memRead t.gbns.frames 3 = some (encodeS 3 p3) := ht.slots 3
  refine ⟨t, u, (execAll_append hsend _).trans (execAll_cons hrx []), ht.base, hslot, fun k hk => ?_, hresend, ?_⟩
  · rw [ht.slots]
    split
    · rfl
    · rw [List.getElem?_eq_none (by simp; omega)]
      rfl
  · have hmod : 3 % t.cfg.gbnMax = 3 := Nat.mod_eq_of_lt (Nat.lt_of_succ_lt ht.length_lt)
    simpa [ht.inFlight, ht.base, hmod, hslot] using houts

end Sys2Proof.Machine
end

section
/-! PROOFS. The Selective Repeat sender and receiver (45_selective_repeat.md R292 to R295): what each operation of a
working unit does, O48 to O51, and the two runs of R296, O54. -/

namespace Sys2Proof.Machine

variable {s : State} {p d : Bytes} {k : Nat}

theorem Working.srs_legal (hw : Working .srs s) :
    s.srs.oldestUnacked < s.cfg.srMax ∧ s.srs.nextToSend < s.cfg.srMax := by
  obtain ⟨-, -, hwf⟩ := hw
  exact Machine.srs_legal hwf

theorem Working.srr_legal (hw : Working .srr s) : s.srr.oldestExpected < s.cfg.srMax := by
  obtain ⟨-, -, hwf⟩ := hw
  exact Machine.srr_legal hwf

/-- The window is at most half the ring (42_window_arith.md R198). -/
theorem srW_add_srW_le {c : Cfg} (h : c.valid = true) : c.srW + c.srW ≤ c.srMax := by
  simp only [Cfg.valid, Bool.and_eq_true, decide_eq_true_eq] at h
  omega

/-! ## SEND (R292) -/

theorem exec_srsSend_of_room (hw : Working .srs s) (hroom : srCanSend s = true) :
    exec (.srsSend p) s = .next (if p.length > s.cfg.frameMax - 2 then s.answer .errLen
      else (State.tx { s with srs := { s.srs with
          frames := memWrite s.srs.frames s.srs.nextToSend (some (encodeS (zext8 s.srs.nextToSend) p))
          timers := setTimerAt s.srs.timers s.srs.nextToSend (timerStart s.cfg.tSr)
          nextToSend := seqInc s.srs.nextToSend s.cfg.srMax } }
        .srs (encodeS (zext8 s.srs.nextToSend) p)).answer .ok) := by
  dsimp only [exec]
  exact hostOperation_of_enabled hw hroom

/-- Settles O48: with room the frame goes into the slot of its number and starts that slot's timer; with a full window
the operation is held. -/
theorem srsSendEffect : Obligations.SrsSendEffect := by
  rintro s p f hw hv rfl
  have hcan := srCanSend_eq hv hw
  refine ⟨fun hroom hp => ?_, fun hroom hp => ?_, fun hfull => ?_⟩
  · refine ⟨_, _, ?_, (memRead_memWrite s.srs.frames _ _ _).trans (if_pos rfl),
      (timerAt_setTimerAt s.srs.timers _ _ _).trans (if_pos rfl),
      fun k hk => ⟨(memRead_memWrite _ _ _ _).trans (if_neg hk), (timerAt_setTimerAt _ _ _ _).trans (if_neg hk)⟩⟩
    rw [exec_srsSend_of_room hw (hcan.trans (decide_eq_true hroom)), if_neg (Nat.not_lt.2 hp), tx_answer]
    rfl
  · rw [exec_srsSend_of_room hw (hcan.trans (decide_eq_true hroom)), if_pos hp]
    rfl
  · dsimp only [exec]
    exact hostOperation_of_held hw (hcan.trans (decide_eq_false (Nat.not_lt.2 hfull)))

/-! ## RX of the sender (R293) -/

theorem exec_srsRx_of_working (hw : Working .srs s) (hv : s.cfg.valid = true) : exec (.srsRx d) s =
    .next (if isAck s.cfg.textDec d = true ∧ (seqOf d).toNat < s.cfg.srMax ∧
        ((seqOf d).toNat + s.cfg.srMax - s.srs.oldestUnacked) % s.cfg.srMax < s.cfg.srW then
      { s with srs := s.srs.acknowledge (seqOf d).toNat s.cfg.srMax } else s) := by
  obtain ⟨hpos, hlt⟩ := srW_of_valid hv
  obtain ⟨hbase, -⟩ := hw.srs_legal
  dsimp only [exec, execSrsRx]
  rw [eventOperation_of_enabled hw rfl]
  simp only [Bool.and_eq_true, inWindow_from _ _ _ _ hbase hpos hlt]

/-- Settles O49: the slot and the timer of the number acknowledged are written alone; the sliding loop runs only from
the oldest number. -/
theorem srsAckIsIndividual : Obligations.SrsAckIsIndividual := by
  rintro s d q hw hv rfl
  obtain ⟨hbase, hnext⟩ := hw.srs_legal
  refine ⟨fun hack hq hwindow => ?_, fun hother => ?_⟩
  · obtain ⟨n, hle, hslide, hempty, hstop⟩ := slideBase_spec s.cfg.srMax s.srs.oldestUnacked s.srs.nextToSend
      (memWrite s.srs.frames (seqOf d).toNat none) hbase hnext
    refine ⟨_, _, (s.srs.acknowledge (seqOf d).toNat s.cfg.srMax).oldestUnacked, n, ?_,
      (memRead_memWrite s.srs.frames (seqOf d).toNat _ none).trans (if_pos rfl),
      (timerAt_setTimerAt s.srs.timers (seqOf d).toNat _ timerCancel).trans (if_pos rfl),
      fun k hk => ⟨(memRead_memWrite _ _ _ _).trans (if_neg hk), (timerAt_setTimerAt _ _ _ _).trans (if_neg hk)⟩,
      fun hne => if_neg hne, fun heq => ?_⟩
    · rw [exec_srsRx_of_working hw hv, if_pos ⟨hack, hq, hwindow⟩]
      rfl
    · rw [show (s.srs.acknowledge (seqOf d).toNat s.cfg.srMax).oldestUnacked = _ from (if_pos heq).trans hslide]
      exact ⟨hle, rfl, hempty, hstop⟩
  · rw [exec_srsRx_of_working hw hv, if_neg]
    rintro ⟨hack, hq, hwindow⟩
    rcases hother with hnack | hge | hout
    · cases hack.symm.trans hnack
    · exact Nat.not_lt.2 hge hq
    · exact Nat.not_lt.2 hout hwindow

/-! ## TMO (R294) -/

theorem exec_srsTmo_of_expired (hw : Working .srs s) (hk : k < s.cfg.srMax)
    (ht : timerAt s.srs.timers k = ⟨true, 0⟩) : exec (.srsTmo k) s =
    .next (State.txSlot { s with srs := { s.srs with
      timers := setTimerAt s.srs.timers k (timerStart s.cfg.tSr) } } .srs (memRead s.srs.frames k)) := by
  dsimp only [exec, execSrsTmo]
  rw [if_pos hk, eventOperation_of_enabled hw (Timer.expired_of_eq ht)]

/-- Settles O50: the timeout writes the timer of its own slot, and a slot with a frame is transmitted. -/
theorem srsTimeoutResendsOneFrame : Obligations.SrsTimeoutResendsOneFrame := by
  intro s k
  have hself := (timerAt_setTimerAt s.srs.timers k k (timerStart s.cfg.tSr)).trans (if_pos rfl)
  have hothers : ∀ j, j ≠ k → timerAt (setTimerAt s.srs.timers k (timerStart s.cfg.tSr)) j = timerAt s.srs.timers j :=
    fun j hj => (timerAt_setTimerAt _ _ _ _).trans (if_neg hj)
  refine ⟨fun hw hk ht f hf => ⟨_, ?_, hself, hothers⟩, fun hw hk ht hnone => ⟨_, ?_, hself, hothers⟩,
    fun hw hk ht => ?_, fun hk => ?_⟩
  · rw [exec_srsTmo_of_expired hw hk ht, hf]
    rfl
  · rw [exec_srsTmo_of_expired hw hk ht, hnone, txSlot_none]
  · dsimp only [exec, execSrsTmo]
    rw [if_pos hk]
    exact eventOperation_of_held hw (Timer.not_expired ht)
  · dsimp only [exec, execSrsTmo]
    exact if_neg (Nat.not_lt.2 hk)

/-! ## RX of the receiver (R295) -/

theorem exec_srrRx_of_working (hw : Working .srr s) (hv : s.cfg.valid = true) : exec (.srrRx d) s =
    .next (if validS d = false then s
      else if (seqOf d).toNat < s.cfg.srMax ∧
          ((seqOf d).toNat + s.cfg.srMax - s.srr.oldestExpected) % s.cfg.srMax < s.cfg.srW then s.srrAccept d
      else if (seqOf d).toNat < s.cfg.srMax ∧ s.cfg.srMax - s.cfg.srW ≤
          ((seqOf d).toNat + s.cfg.srMax - s.srr.oldestExpected) % s.cfg.srMax then
        s.txSlot .srr (memRead s.srr.acks (seqOf d).toNat)
      else s) := by
  obtain ⟨hpos, hlt⟩ := srW_of_valid hv
  dsimp only [exec, execSrrRx]
  rw [eventOperation_of_enabled hw rfl]
  simp only [Bool.not_eq_true', inWindow_from _ _ _ _ hw.srr_legal hpos hlt,
    inWindow_before _ _ _ _ hw.srr_legal hpos hlt]

theorem srrAccept_of_expected (hq : (seqOf d).toNat = s.srr.oldestExpected) {n : Drained}
    (hn : n = drain s.cfg.srMax s.cfg.srW
      (memWrite s.srr.reorder (seqOf d).toNat (some (textDec s.cfg.textDec (payloadS d)))) s.srr.oldestExpected) :
    s.srrAccept d = { s with
      srr := { s.srr with
        reorder := n.reorder
        acks := memWrite s.srr.acks (seqOf d).toNat (some (ackFrame (seqOf d)))
        oldestExpected := n.oldestExpected }
      outs := s.outs ++ (Output.tx .srr (ackFrame (seqOf d)) :: n.delivered.map (Output.deliver .srr))
      wire := s.wire ++ [(.srs, ackFrame (seqOf d))] } := by
  subst hn
  simp [State.srrAccept, if_pos hq, deliverAll_eq, State.tx, State.emit, ProtUnit.peer]

theorem srrAccept_of_ne (hq : (seqOf d).toNat ≠ s.srr.oldestExpected) :
    s.srrAccept d = { s with
      srr := { s.srr with
        reorder := memWrite s.srr.reorder (seqOf d).toNat (some (textDec s.cfg.textDec (payloadS d)))
        acks := memWrite s.srr.acks (seqOf d).toNat (some (ackFrame (seqOf d))) }
      outs := s.outs ++ [Output.tx .srr (ackFrame (seqOf d))]
      wire := s.wire ++ [(.srs, ackFrame (seqOf d))] } := by
  simp [State.srrAccept, if_neg hq, State.tx, State.emit, ProtUnit.peer]

/-- The `n` numbers from `base` on are those at a distance below `n`. -/
theorem exists_eq_add_mod_iff {base m n : Nat} (hb : base < m) (hn : n ≤ m) :
    (∃ j, j < n ∧ k = (base + j) % m) ↔ k < m ∧ (k + m - base) % m < n := by
  constructor
  · rintro ⟨j, hj, rfl⟩
    exact ⟨Nat.mod_lt _ (Nat.zero_lt_of_lt hb), by rwa [dist_add base j m hb (by omega)]⟩
  · rintro ⟨hk, hdist⟩
    exact ⟨_, hdist, (add_dist base k m hb hk).symm⟩

/-- From a filled slot the drain delivers at least that payload, and it stops at `w` payloads or at an empty slot. The
numbers passed are counted from `base`. -/
theorem drain_of_filled {m base w : Nat} {b : SlotArray} (hb : base < m) (hpos : 0 < w) (hw : w < m)
    (hfilled : memRead b base ≠ none) {r : Drained} (hr : r = drain m w b base) :
    0 < r.delivered.length ∧ r.delivered.length ≤ w ∧ r.oldestExpected = (base + r.delivered.length) % m ∧
      (∀ j, j < r.delivered.length → some (r.delivered.getD j []) = memRead b ((base + j) % m)) ∧
      (∀ k, memRead r.reorder k =
        if ∃ j, j < r.delivered.length ∧ k = (base + j) % m then none else memRead b k) ∧
      (r.delivered.length = w ∨ memRead r.reorder r.oldestExpected = none) := by
  obtain ⟨n, hle, hoe, hlen, hdelivered, hread, hstop⟩ := drain_spec m base w b hb hw
  rw [← hr] at hoe hlen hdelivered hread
  subst hlen
  have hdist : ((base + r.delivered.length) % m + m - base) % m = r.delivered.length := dist_add _ _ _ hb (by omega)
  refine ⟨Nat.pos_of_ne_zero fun h0 => ?_, hle, hoe, fun j hj => ?_, fun k => ?_, hstop.imp_right fun hnone => ?_⟩
  · rw [h0, Nat.add_zero, Nat.mod_eq_of_lt hb] at hstop
    exact hstop.elim hpos.ne hfilled
  · rw [← (hdelivered j hj).1, List.getD_eq_getElem _ _ hj, List.getElem?_eq_getElem hj]
  · simp only [hread, exists_eq_add_mod_iff hb (hle.trans hw.le)]
  · rw [hoe, hread, hdist, if_neg (fun h => Nat.lt_irrefl _ h.2), hnone]

/-- Settles O51: the receive window and the shadow window do not meet, and the drain starts only from the number
expected, whose slot has just been filled. -/
theorem srrReceives : Obligations.SrrReceives := by
  rintro s d q hw hv rfl
  obtain ⟨hpos, hlt⟩ := srW_of_valid hv
  have hhalf := srW_add_srW_le hv
  have hoe := hw.srr_legal
  have hack : memRead (memWrite s.srr.acks (seqOf d).toNat (some (ackFrame (seqOf d)))) (seqOf d).toNat =
      some (ackFrame (seqOf d)) := (memRead_memWrite _ _ _ _).trans (if_pos rfl)
  have hacks : ∀ k, k ≠ (seqOf d).toNat →
      memRead (memWrite s.srr.acks (seqOf d).toNat (some (ackFrame (seqOf d)))) k = memRead s.srr.acks k :=
    fun k hk => (memRead_memWrite _ _ _ _).trans (if_neg hk)
  have hbuffer := memRead_memWrite s.srr.reorder (seqOf d).toNat (v := some (textDec s.cfg.textDec (payloadS d)))
  refine ⟨fun hvalid hq hwindow => ?_, fun hvalid hq hshadow => ?_, fun hother => ?_⟩
  · rw [exec_srrRx_of_working hw hv, if_neg (ne_false_of_eq_true hvalid), if_pos ⟨hq, hwindow⟩]
    by_cases heq : (seqOf d).toNat = s.srr.oldestExpected
    · generalize hr : drain s.cfg.srMax s.cfg.srW (memWrite s.srr.reorder (seqOf d).toNat
        (some (textDec s.cfg.textDec (payloadS d)))) s.srr.oldestExpected = r
      obtain ⟨hn, hle, hbase, hdelivered, hread, hstop⟩ :=
        drain_of_filled hoe hpos hlt (by rw [hbuffer, if_pos heq.symm]; exact Option.some_ne_none _) hr.symm
      refine ⟨r.reorder, _, r.delivered.length, r.oldestExpected, r.delivered,
        congrArg _ (srrAccept_of_expected heq hr.symm), hack, hacks, hle, hbase, rfl, fun j hj => ?_, fun k => ?_,
        fun hne => absurd heq hne, fun _ => ⟨hn, hstop⟩⟩
      · rw [hdelivered j hj, hbuffer]
        rfl
      · rw [hread, hbuffer]
        rfl
    · refine ⟨_, _, 0, s.srr.oldestExpected, [], congrArg _ (srrAccept_of_ne heq), hack, hacks, Nat.zero_le _,
        (Nat.mod_eq_of_lt hoe).symm, rfl, fun j hj => absurd hj (Nat.not_lt_zero j), fun k => ?_, fun _ => rfl,
        fun h => absurd h heq⟩
      have hnone : ¬ ∃ j, j < 0 ∧ k = (s.srr.oldestExpected + j) % s.cfg.srMax :=
        fun ⟨j, hj, _⟩ => Nat.not_lt_zero j hj
      rw [hbuffer, if_neg hnone]
      rfl
  · rw [exec_srrRx_of_working hw hv, if_neg (ne_false_of_eq_true hvalid), if_neg (by omega), if_pos ⟨hq, hshadow⟩]
    refine ⟨fun a ha => ?_, fun hnone => ?_⟩
    · rw [ha]
      rfl
    · rw [hnone, txSlot_none]
  · rw [exec_srrRx_of_working hw hv]
    rcases hother with hinvalid | hout
    · rw [if_pos hinvalid]
    · have hreceive : ¬ ((seqOf d).toNat < s.cfg.srMax ∧
          ((seqOf d).toNat + s.cfg.srMax - s.srr.oldestExpected) % s.cfg.srMax < s.cfg.srW) := by omega
      have hshadow : ¬ ((seqOf d).toNat < s.cfg.srMax ∧ s.cfg.srMax - s.cfg.srW ≤
          ((seqOf d).toNat + s.cfg.srMax - s.srr.oldestExpected) % s.cfg.srMax) := by omega
      rw [if_neg hreceive, if_neg hshadow, ite_self]

/-! ## Runs of TICK and TMO (R353, R294) -/

theorem exec_srsTick_of_working (hw : Working .srs s) : exec .srsTick s =
    .next { s with srs := { s.srs with timers := tickAll s.cfg.srMax s.srs.timers } } := by
  dsimp only [exec]
  exact eventOperation_of_enabled hw rfl

theorem execAll_srsTick (n : Nat) (hw : Working .srs s) : execAll (List.replicate n .srsTick) s =
    .next { s with srs := { s.srs with timers := (tickAll s.cfg.srMax)^[n] s.srs.timers } } := by
  induction n generalizing s with
  | zero => rfl
  | succ n ih =>
    rw [List.replicate_succ, execAll_cons (exec_srsTick_of_working hw)]
    exact ih hw

theorem timerAt_tickAll_iterate {m : Nat} (n : Nat) (a : TimerArray) (hk : k < m) :
    timerAt ((tickAll m)^[n] a) k = Timer.tick^[n] (timerAt a k) := by
  induction n generalizing a with
  | zero => rfl
  | succ n ih => rw [Function.iterate_succ_apply, ih, timerAt_tickAll, if_pos hk, Function.iterate_succ_apply]

theorem timerAt_tickAll_iterate_of_le {m : Nat} (n : Nat) (a : TimerArray) (hk : m ≤ k) :
    timerAt ((tickAll m)^[n] a) k = timerAt a k := by
  induction n generalizing a with
  | zero => rfl
  | succ n ih => rw [Function.iterate_succ_apply, ih, timerAt_tickAll, if_neg (Nat.not_lt.2 hk)]

theorem Timer.tick_iterate_armed (n T : Nat) : Timer.tick^[n] ⟨true, T⟩ = ⟨true, T - n⟩ := by
  induction n generalizing T with
  | zero => rfl
  | succ n ih => rw [Function.iterate_succ_apply, Timer.tick_armed_eq, ih, Nat.sub_sub, Nat.add_comm 1 n]

theorem Timer.tick_of_not_armed {x : Timer} (h : x.armed = false) : x.tick = x := by
  simp [Timer.tick, Timer.running, h]

/-- Left alone for as long as the timer of slot `k` was started for, `SRS` transmits the frame of that slot again; a
timer that does not run stays. -/
theorem execAll_srsTick_srsTmo {T : Nat} {f : Bytes} (hw : Working .srs s) (hk : k < s.cfg.srMax)
    (ht : timerAt s.srs.timers k = ⟨true, T⟩) (hf : memRead s.srs.frames k = some f) :
    ∃ u, execAll (List.replicate T .srsTick ++ [.srsTmo k]) s = .next u ∧ u.outs = s.outs ++ [.tx .srs f] ∧
      u.srs.frames = s.srs.frames ∧ ∀ j, j ≠ k → (timerAt s.srs.timers j).armed = false →
        timerAt u.srs.timers j = timerAt s.srs.timers j := by
  have hexpired : timerAt ((tickAll s.cfg.srMax)^[T] s.srs.timers) k = ⟨true, 0⟩ := by
    rw [timerAt_tickAll_iterate T _ hk, ht, Timer.tick_iterate_armed, Nat.sub_self]
  obtain ⟨hresend, -⟩ := srsTimeoutResendsOneFrame
    { s with srs := { s.srs with timers := (tickAll s.cfg.srMax)^[T] s.srs.timers } } k
  obtain ⟨a, hexec, -, hothers⟩ := hresend hw hk hexpired f hf
  refine ⟨_, (execAll_append (execAll_srsTick T hw) _).trans (execAll_cons hexec []), rfl, rfl, fun j hj hidle => ?_⟩
  refine (hothers j hj).trans ?_
  rcases Nat.lt_or_ge j s.cfg.srMax with hlt | hge
  · exact (timerAt_tickAll_iterate T _ hlt).trans (Function.iterate_fixed (Timer.tick_of_not_armed hidle) T)
  · exact timerAt_tickAll_iterate_of_le T _ hge

/-! ## Payloads sent and acknowledged one by one (R296) -/

/-- The timer of a slot: just started if the slot holds a frame, else idle. -/
def startedTimer (T : Nat) (held : Option Bytes) : Timer := if held.isSome then ⟨true, T⟩ else ⟨false, 0⟩

/-- `SRS` works, its window reaches from `base` to `next`, slot `k` holds `held k`, and the timers of the filled slots,
no other, have just been started. -/
structure SrsHolds (c : Cfg) (s : State) (base next : Nat) (held : Nat → Option Bytes) : Prop where
  cfg : s.cfg = c
  working : Working .srs s
  base : s.srs.oldestUnacked = base
  next : s.srs.nextToSend = next
  slots : memRead s.srs.frames = held
  timers : timerAt s.srs.timers = startedTimer c.tSr ∘ held

namespace SrsHolds

variable {c : Cfg} {b b' n q : Nat} {held : Nat → Option Bytes}

/-- With room, `SEND` fills one more slot. -/
theorem send (h : SrsHolds c s b n held) (hv : c.valid = true) (hbn : b ≤ n) (hroom : n < b + c.srW)
    (hnext : n + 1 < c.srMax) (hp : p.length ≤ c.frameMax - 2) : ∃ t, exec (.srsSend p) s = .next t ∧
      SrsHolds c t b (n + 1) (Function.update held n (some (encodeS (zext8 n) p))) := by
  obtain ⟨rfl, hw, rfl, rfl, rfl, htimers⟩ := h
  have ⟨hfault, hopen, _⟩ := hw
  obtain ⟨hbase, -⟩ := hw.srs_legal
  have hinc : (s.srs.nextToSend + 1) % s.cfg.srMax = s.srs.nextToSend + 1 := Nat.mod_eq_of_lt hnext
  have hflight : srInFlight s = s.srs.nextToSend - s.srs.oldestUnacked := dist_of_le hbn (by omega)
  obtain ⟨hsend, -⟩ := srsSendEffect s p _ hw hv rfl
  obtain ⟨a, x, hexec, hframe, htimer, hothers⟩ := hsend (by omega) hp
  refine ⟨_, hexec, rfl, ⟨hfault, hopen, ?_⟩, rfl, hinc,
    Function.eq_update_iff.2 ⟨hframe, fun k hk => (hothers k hk).1⟩, ?_⟩
  · simp only [State.wf, hinc, Bool.and_eq_true, decide_eq_true_eq]
    exact ⟨hbase, hnext⟩
  · rw [Function.comp_update, ← htimers]
    exact Function.eq_update_iff.2 ⟨htimer, fun k hk => (hothers k hk).2⟩

/-- An `Ack` of a number sent empties its slot; when it was the oldest and the next one is held, the base moves to
that one. -/
theorem acknowledge (h : SrsHolds c s b n held) (hv : c.valid = true) (hack : isAck c.textDec d = true)
    (hq : q = (seqOf d).toNat) (hbq : b ≤ q) (hqn : q < n) (hn : n ≤ b + c.srW)
    (hstay : q ≠ b → b' = b) (hmove : q = b → b' = b + 1 ∧ b + 1 < n ∧ (held (b + 1)).isSome = true) :
    ∃ t, exec (.srsRx d) s = .next t ∧ SrsHolds c t b' n (Function.update held q none) := by
  obtain ⟨rfl, hw, rfl, rfl, rfl, htimers⟩ := h
  have ⟨hfault, hopen, _⟩ := hw
  obtain ⟨hbase, hnext⟩ := hw.srs_legal
  obtain ⟨hrx, -⟩ := srsAckIsIndividual s d q hw hv hq
  obtain ⟨a, x, base, j, hexec, hframe, htimer, hothers, hkeep, hslide⟩ :=
    hrx hack (by omega) (by rw [dist_of_le hbq (by omega)]; omega)
  obtain ⟨hmoved, hlegal⟩ : base = b' ∧ b' < s.cfg.srMax := by
    by_cases heq : q = s.srs.oldestUnacked
    · obtain ⟨rfl, hlt, hheld⟩ := hmove heq
      obtain ⟨-, hmod, hempty, hend⟩ := hslide heq
      have hinc : (s.srs.oldestUnacked + 1) % s.cfg.srMax = s.srs.oldestUnacked + 1 := Nat.mod_eq_of_lt (by omega)
      have hnone : memRead a (s.srs.oldestUnacked + 1) ≠ none := by
        rwa [(hothers _ (by omega)).1, ← Option.isSome_iff_ne_none]
      have hpassed : j ≠ 0 := by
        rintro rfl
        rw [Nat.add_zero, Nat.mod_eq_of_lt hbase, ← heq] at hmod
        rw [hmod, hframe, srInFlight, dist_of_le (by omega) hnext] at hend
        rcases hend with hzero | hsome
        · omega
        · cases hsome
      have hstops : ¬ 1 < j := fun h1 => hnone (hinc ▸ hempty 1 h1)
      exact ⟨by rw [hmod, show j = 1 by omega, hinc], by omega⟩
    · rw [hkeep heq, hstay heq]
      exact ⟨rfl, hbase⟩
  refine ⟨_, hexec, rfl, ⟨hfault, hopen, ?_⟩, hmoved, rfl,
    Function.eq_update_iff.2 ⟨hframe, fun k hk => (hothers k hk).1⟩, ?_⟩
  · simp only [State.wf, hmoved, Bool.and_eq_true, decide_eq_true_eq]
    exact ⟨hlegal, hnext⟩
  · rw [Function.comp_update, ← htimers]
    exact Function.eq_update_iff.2 ⟨htimer, fun k hk => (hothers k hk).2⟩

end SrsHolds

/-- `SRS` sends three payloads from number 0 on and gets the `Ack` of 0 and of 2: frame 1 alone is left. -/
theorem srs_left_with_frame_one {p0 p1 p2 : Bytes} (hw : Working .srs s) (hv : s.cfg.valid = true)
    (hwindow : 3 ≤ s.cfg.srW) (hbase : s.srs.oldestUnacked = 0) (hnext : s.srs.nextToSend = 0)
    (hframes : s.srs.frames = []) (htimers : s.srs.timers = []) (h0 : p0.length ≤ s.cfg.frameMax - 2)
    (h1 : p1.length ≤ s.cfg.frameMax - 2) (h2 : p2.length ≤ s.cfg.frameMax - 2) :
    ∃ t, execAll [.srsSend p0, .srsSend p1, .srsSend p2, .srsRx (ackFrame 0), .srsRx (ackFrame 2)] s = .next t ∧
      SrsHolds s.cfg t 1 3 fun k => if k = 1 then some (encodeS 1 p1) else none := by
  have hhalf := srW_add_srW_le hv
  have hstart : SrsHolds s.cfg s 0 0 fun _ => none :=
    ⟨rfl, hw, hbase, hnext, by rw [hframes]; rfl, by rw [htimers]; rfl⟩
  obtain ⟨a, ha, hsent0⟩ := hstart.send hv le_rfl (by omega) (by omega) h0
  obtain ⟨b, hb, hsent1⟩ := hsent0.send hv (Nat.zero_le _) (by omega) (by omega) h1
  obtain ⟨e, he, hsent2⟩ := hsent1.send hv (Nat.zero_le _) (by omega) (by omega) h2
  obtain ⟨r, hr, hacked0⟩ := hsent2.acknowledge (q := 0) (b' := 1) hv (isAck_ackFrame _ 0) rfl le_rfl (by omega)
    (by omega) (fun hne => absurd rfl hne) fun _ => ⟨rfl, by omega, rfl⟩
  obtain ⟨t, ht, hacked2⟩ := hacked0.acknowledge (q := 2) (b' := 1) hv (isAck_ackFrame _ 2) rfl (by omega) (by omega)
    (by omega) (fun _ => rfl) fun heq => by cases heq
  refine ⟨t, ?_, ?_⟩
  · rw [execAll_cons ha, execAll_cons hb, execAll_cons he, execAll_cons hr, execAll_cons ht, execAll]
  · convert hacked2 using 1
    funext k
    rcases k with _ | _ | _ | k <;> rfl

/-! ## Payloads received out of order (R296) -/

/-- Payloads read one after another up to the first gap, fewer than `w`, are determined by what is read. -/
theorem eq_of_reads_up_to_gap {w : Nat} {slot : Nat → Option Bytes} {ps qs : List Bytes} (hw : ps.length < w)
    (hps : ∀ j ≤ ps.length, slot j = ps[j]?) (hqs : ∀ j, j < qs.length → some (qs.getD j []) = slot j)
    (hgap : qs.length < w → slot qs.length = none) : qs = ps := by
  rcases Nat.lt_trichotomy qs.length ps.length with hlt | heq | hgt
  · have hnone := (hps _ hlt.le).symm.trans (hgap (hlt.trans hw))
    exact absurd (List.getElem?_eq_none_iff.1 hnone) (Nat.not_le.2 hlt)
  · refine List.ext_getElem heq fun j hj hj' => Option.some.inj ?_
    rw [← List.getD_eq_getElem _ [] hj, hqs j hj, hps j hj'.le, List.getElem?_eq_getElem hj']
  · have hsome := (hqs _ hgt).trans (hps _ le_rfl)
    rw [List.getElem?_eq_none le_rfl] at hsome
    cases hsome

/-- `SRR` works, expects number `oe` next, and its buffer holds `held k` in slot `k`. -/
structure SrrHolds (c : Cfg) (s : State) (oe : Nat) (held : Nat → Option Bytes) : Prop where
  cfg : s.cfg = c
  working : Working .srr s
  expected : s.srr.oldestExpected = oe
  slots : memRead s.srr.reorder = held

namespace SrrHolds

variable {c : Cfg} {v : Byte} {oe q : Nat} {held : Nat → Option Bytes}

/-- A frame ahead of the one expected is acknowledged and its payload buffered. -/
theorem buffer (h : SrrHolds c s oe held) (hv : c.valid = true) (hq : q = v.toNat) (hlt : oe < q)
    (hwindow : q < oe + c.srW) (hqm : q < c.srMax) : ∃ t, exec (.srrRx (encodeS v p)) s = .next t ∧
      t.outs = s.outs ++ [.tx .srr (ackFrame v)] ∧
      SrrHolds c t oe (Function.update held q (some (textDec c.textDec p))) := by
  obtain ⟨rfl, hw, rfl, rfl⟩ := h
  have hoe := hw.srr_legal
  have htext : (encodeS v p).tail.dropLast = p := payloadS_encodeS v p
  obtain ⟨haccept, -⟩ := srrReceives s (encodeS v p) q hw hv hq
  obtain ⟨b, a, n, oe, ps, hexec, -, -, -, hbase, hlen, -, hread, hzero, -⟩ :=
    haccept (validS_encodeS v p) hqm (by rw [dist_of_le hlt.le hqm]; omega)
  obtain rfl := hzero hlt.ne'
  rw [Nat.add_zero, Nat.mod_eq_of_lt hoe] at hbase
  subst hbase
  obtain rfl := List.length_eq_zero_iff.1 hlen
  refine ⟨_, hexec, rfl, rfl, hw, rfl, funext fun k => ?_⟩
  have hnone : ¬ ∃ j, j < 0 ∧ k = (s.srr.oldestExpected + j) % s.cfg.srMax := fun ⟨j, hj, _⟩ => Nat.not_lt_zero j hj
  rw [hread, if_neg hnone, htext, Function.update_apply]

/-- The frame expected is acknowledged, and the payloads `ps` that stand in the buffer from its number on up to the next
empty slot are delivered. -/
theorem deliver (h : SrrHolds c s oe held) (hv : c.valid = true) (hq : oe = v.toNat) {ps : List Bytes}
    (hwindow : ps.length < c.srW) (hm : oe + ps.length < c.srMax)
    (hps : ∀ j ≤ ps.length, Function.update held oe (some (textDec c.textDec p)) (oe + j) = ps[j]?) :
    ∃ t, exec (.srrRx (encodeS v p)) s = .next t ∧
      t.outs = s.outs ++ (.tx .srr (ackFrame v) :: ps.map (.deliver .srr)) ∧
      SrrHolds c t (oe + ps.length) fun k => if oe ≤ k ∧ k < oe + ps.length then none else held k := by
  obtain ⟨rfl, hw, rfl, rfl⟩ := h
  have ⟨hfault, hopen, _⟩ := hw
  have hoe := hw.srr_legal
  obtain ⟨hpos, hlt⟩ := srW_of_valid hv
  have htext : (encodeS v p).tail.dropLast = p := payloadS_encodeS v p
  have hmod : ∀ j ≤ ps.length, (s.srr.oldestExpected + j) % s.cfg.srMax = s.srr.oldestExpected + j :=
    fun j hj => Nat.mod_eq_of_lt (by omega)
  obtain ⟨haccept, -⟩ := srrReceives s (encodeS v p) _ hw hv hq
  obtain ⟨b, a, n, next, qs, hexec, -, -, hle, hnext, rfl, hqs, hread, -, hstop⟩ :=
    haccept (validS_encodeS v p) hoe (by rwa [dist_self])
  simp only [htext, ← Function.update_apply] at hqs hread
  obtain ⟨hn, hstop⟩ := hstop rfl
  obtain rfl : qs = ps := by
    refine eq_of_reads_up_to_gap hwindow (fun j hj => (congrArg _ (hmod j hj)).trans (hps j hj)) hqs fun hshort => ?_
    have hnone := hstop.resolve_left hshort.ne
    rw [hnext, hread] at hnone
    simpa only [exists_eq_add_mod_iff hoe (hle.trans hlt.le), dist_add _ _ _ hoe (hle.trans_lt hlt), Nat.lt_irrefl,
      and_false, if_false] using hnone
  rw [hmod _ le_rfl] at hnext
  have hpassed : ∀ k, (∃ j, j < qs.length ∧ k = (s.srr.oldestExpected + j) % s.cfg.srMax) ↔
      s.srr.oldestExpected ≤ k ∧ k < s.srr.oldestExpected + qs.length := fun k =>
    ⟨fun ⟨j, hj, hk⟩ => by rw [hk, hmod j hj.le]; omega,
      fun hk => ⟨k - s.srr.oldestExpected, by omega, by rw [hmod _ (by omega)]; omega⟩⟩
  refine ⟨_, hexec, rfl, rfl, ⟨hfault, hopen, decide_eq_true (hnext ▸ hm)⟩, hnext, funext fun k => ?_⟩
  simp only [hread, hpassed]
  split
  · rfl
  · exact Function.update_of_ne (by omega) _ _

end SrrHolds

/-- Settles O54: of the slots of `SRS` only slot 1 still holds a frame and runs its timer; `SRR` buffers payload 2 until
frame 1 fills the gap before it. -/
theorem selectiveRepeatIndependentScenario : Obligations.SelectiveRepeatIndependentScenario := by
  refine ⟨fun s p0 p1 p2 hw hv hwindow hbase hnext hframes htimers h0 h1 h2 => ?_,
    fun s p0 p1 p2 hw hv hwindow hoe hbuffer => ?_⟩
  · obtain ⟨t, hrun, ht⟩ := srs_left_with_frame_one hw hv hwindow hbase hnext hframes htimers h0 h1 h2
    have hslot : memRead t.srs.frames 1 = some (encodeS 1 p1) := congrFun ht.slots 1
    have htimer : timerAt t.srs.timers 1 = ⟨true, s.cfg.tSr⟩ := congrFun ht.timers 1
    have hempty : ∀ k, k ≠ 1 → memRead t.srs.frames k = none := fun k hk => (congrFun ht.slots k).trans (if_neg hk)
    have hidle : ∀ k, k ≠ 1 → timerAt t.srs.timers k = ⟨false, 0⟩ := fun k hk => by
      rw [ht.timers, Function.comp_apply, if_neg hk]
      rfl
    obtain ⟨hlegal, -⟩ := ht.working.srs_legal
    obtain ⟨u, hresend, houts, hsame, hothers⟩ := execAll_srsTick_srsTmo ht.working (ht.base ▸ hlegal) htimer hslot
    exact ⟨t, u, hrun, ht.base, hslot, fun k hk => ⟨hempty k hk, hidle k hk⟩, hresend, houts, hsame,
      fun k hk => hothers k hk (by rw [hidle k hk])⟩
  · have hhalf := srW_add_srW_le hv
    have hstart : SrrHolds s.cfg s 0 fun _ => none := ⟨rfl, hw, hoe, by rw [hbuffer]; rfl⟩
    obtain ⟨a, ha, houts0, hgot0⟩ := hstart.deliver (v := 0) (p := p0) (ps := [textDec s.cfg.textDec p0]) hv
      rfl (by simp; omega) (by simp; omega) fun
        | 0, _ => rfl
        | 1, _ => rfl
    obtain ⟨b, hb, houts2, hgot2⟩ := hgot0.buffer (v := 2) (p := p2) (q := 2) hv rfl (by simp)
      (by simp; omega) (by omega)
    obtain ⟨t, ht, houts1, -⟩ := hgot2.deliver (v := 1) (p := p1)
      (ps := [textDec s.cfg.textDec p1, textDec s.cfg.textDec p2]) hv rfl (by simp; omega)
      (by simp; omega) fun
        | 0, _ => rfl
        | 1, _ => rfl
        | 2, _ => rfl
    refine ⟨t, ?_, ?_⟩
    · rw [execAll_cons ha, execAll_cons hb, execAll_cons ht, execAll]
    · simp [houts1, houts2, houts0]

end Sys2Proof.Machine
end

section
/-! PROOFS. The tests before every operation, the fatal fault and `STOP` (60_exceptions.md R341, R343, R344, R356): O26,
O27, O28 and O30. -/

namespace Sys2Proof.Machine

variable {u : ProtUnit} {s t : State} {i : Instr}

/-! ## The tests, one by one (R341) -/

theorem hostOperation_of_fault {en : Bool} {body : State → State} (hf : (s.flags u).fault = true) :
    hostOperation u en body s = .next (s.answer .errFault) :=
  if_pos hf

theorem hostOperation_of_illegal {en : Bool} {body : State → State} (hf : (s.flags u).fault = false)
    (hw : s.wf u = false) : hostOperation u en body s = .next ((s.takeFault u badState).answer .errFault) := by
  simp [hostOperation, hf, hw]

theorem hostOperation_of_closed {en : Bool} {body : State → State} (hf : (s.flags u).fault = false)
    (hw : s.wf u = true) (hc : (s.flags u).closed = true) :
    hostOperation u en body s = .next (s.answer .errClosed) := by
  simp [hostOperation, hf, hw, hc]

/-- A unit that is faulted or closed serves no other agent. -/
theorem eventOperation_of_off {en : Bool} {body : State → State}
    (hoff : (s.flags u).fault = true ∨ (s.flags u).closed = true) : eventOperation u en body s = .next s :=
  if_pos (Bool.or_eq_true_iff.2 hoff)

theorem eventOperation_of_illegal {en : Bool} {body : State → State} (hf : (s.flags u).fault = false)
    (hc : (s.flags u).closed = false) (hw : s.wf u = false) :
    eventOperation u en body s = .next (s.takeFault u badState) := by
  simp [eventOperation, hf, hc, hw]

/-- A working unit accepts an operation of another agent exactly if it is enabled. -/
theorem eventAccepts_of_working (hw : Working u s) (en : Bool) : eventAccepts u en s = en := by
  obtain ⟨hf, hc, hwf⟩ := hw
  simp [eventAccepts, hf, hc, hwf]

/-- Finding an illegal code is accepted whether or not the operation is enabled. -/
theorem eventAccepts_of_illegal (hf : (s.flags u).fault = false) (hc : (s.flags u).closed = false)
    (hw : s.wf u = false) (en : Bool) : eventAccepts u en s = true := by
  simp [eventAccepts, hf, hc, hw]

theorem stopUnit_of_fault (hf : (s.flags u).fault = true) : stopUnit u s = .next (s.answer .errFault) :=
  if_pos hf

theorem stopUnit_of_illegal (hf : (s.flags u).fault = false) (hw : s.wf u = false) :
    stopUnit u s = .next ((s.takeFault u badState).answer .errFault) := by
  simp [stopUnit, hf, hw]

/-- The fault is taken, then the host answered. -/
theorem takeFault_answer (s : State) (u : ProtUnit) (c : BitVec 2) (x : Status) :
    (s.takeFault u c).answer x = { s.takeFault u c with outs := s.outs ++ [.ret (.status x)] } := by
  rw [← takeFault_outs s u c]
  rfl

/-! ## Which tests an operation makes -/

theorem exec_eq_stopUnit (hi : isStop i = true) (hu : instrUnit i = some u) (s : State) :
    exec i s = stopUnit u s := by
  cases i with
  | swnsStop | swnrStop | abpsStop | abprStop | pnasStop | pnarStop | gbnsStop | gbnrStop | srsStop | srrStop =>
    cases hu
    rfl
  | _ => cases hi

/-- An operation of a protocol unit is one of the three kinds. -/
theorem kind_of_instrUnit (hu : instrUnit i = some u) :
    isSendOrCansend i = true ∨ isEvent i = true ∨ isStop i = true := by
  cases i with
  | swnsSend | abpsSend | pnasSend | gbnsSend | srsSend | gbnsCansend | srsCansend => exact .inl rfl
  | swnsStop | swnrStop | abpsStop | abprStop | pnasStop | pnarStop | gbnsStop | gbnrStop | srsStop | srrStop =>
    exact .inr (.inr rfl)
  | crcClr | crcShift | crcByte | crcAug | crcRead | crcCompute | crcVerify => cases hu
  | frmEnc | frmEncs | frmDec | frmDecs | winTest | sysReset => cases hu
  | _ => exact .inr (.inl rfl)

/-- Settles O26: `SEND` and `CANSEND` run under the first list of R341, the operations of other agents under the second,
`STOP` under its own two tests. -/
theorem prologueOfEveryOperation : Obligations.PrologueOfEveryOperation := by
  refine ⟨fun i u s hi hu => ?_, fun i u s hi hu hr => ?_, fun i u s hi hu => ?_⟩
  · obtain ⟨v, en, body, hv, -, he⟩ := exec_eq_hostOperation i s hi
    cases hu.symm.trans hv
    rw [he]
    refine ⟨hostOperation_of_fault, fun hf hw => ?_, hostOperation_of_closed⟩
    rw [hostOperation_of_illegal hf hw, takeFault_answer]
    rfl
  · obtain ⟨v, en, body, hv, -, he⟩ := exec_eq_eventOperation i s hr hi
    cases hu.symm.trans hv
    rw [he]
    exact ⟨eventOperation_of_off, eventOperation_of_illegal⟩
  · rw [exec_eq_stopUnit hi hu]
    refine ⟨stopUnit_of_fault, fun hf hw => ?_⟩
    rw [stopUnit_of_illegal hf hw, takeFault_answer]
    rfl

/-! ## Taking the fault (R343) -/

/-- Settles O27: by definition, unit by unit. -/
theorem faultEntryWrites : Obligations.FaultEntryWrites :=
  fun _ _ => ⟨rfl, rfl, rfl, rfl, rfl, rfl, rfl, rfl, rfl, rfl⟩

/-! ## The fault stays (R344) -/

theorem SameRegisters.refl : SameRegisters s s := by simp [SameRegisters]

theorem SameRegisters.sameUnit (h : SameRegisters s t) (u : ProtUnit) : SameUnit u s t := by
  obtain ⟨-, h1, h2, h3, h4, h5, h6, h7, h8, h9, h10⟩ := h
  cases u
  exacts [h1, h2, h3, h4, h5, h6, h7, h8, h9, h10]

/-- The status registers are among the registers of the unit. -/
theorem SameUnit.flags_eq (h : SameUnit u s t) : t.flags u = s.flags u := by
  cases u <;> simp only [SameUnit] at h <;> simp only [State.flags, h]

/-- An operation of another agent is accepted as the second list of R341 says, under some enabling condition. -/
theorem accepts_eq_eventAccepts (s : State) (hi : isEvent i = true) (hu : instrUnit i = some u) :
    ∃ en, accepts i s = eventAccepts u en s := by
  cases i with
  | swnsRx | abpsRx | pnasRx | gbnsRx | srsRx => cases hu; exact ⟨_, rfl⟩
  | swnrRx | abprRx | pnarRx | gbnrRx | srrRx => cases hu; exact ⟨_, rfl⟩
  | swnsTmo | abpsTmo | pnasTmo | gbnsTmo | srsTmo => cases hu; exact ⟨_, rfl⟩
  | swnsTick | abpsTick | pnasTick | gbnsTick | srsTick => cases hu; exact ⟨_, rfl⟩
  | wireN | wireS | nak0 | ack | nak => cases hu; exact ⟨_, rfl⟩
  | _ => cases hi

/-- Whatever its operands, an operation of another agent changes nothing while its unit is faulted or closed. -/
theorem eq_of_exec_event_of_off (hi : isEvent i = true) (hu : instrUnit i = some u)
    (hoff : (s.flags u).fault = true ∨ (s.flags u).closed = true) (he : exec i s = .next t) : t = s := by
  have hop : ∀ {en body}, eventOperation u en body s = .next t → t = s := fun h =>
    (Host.Outcome.next.inj ((eventOperation_of_off hoff).symm.trans h)).symm
  have harrive : ∀ {d}, arrive u d s = .next t → t = s := fun {d} h =>
    have ⟨_, hb⟩ := arrive_eq_eventOperation u d s
    hop (hb.symm.trans h)
  cases i with
  | swnsRx | swnrRx | abpsRx | abprRx | pnasRx | pnarRx | gbnsRx | gbnrRx | srsRx | srrRx => cases hu; exact harrive he
  | wireN | wireS | ack | nak => cases hu; exact harrive he
  | nak0 => cases hu; exact harrive (d := nak0Frame) he
  | swnsTmo | abpsTmo | pnasTmo | gbnsTmo | swnsTick | abpsTick | pnasTick | gbnsTick | srsTick =>
    cases hu
    dsimp only [exec] at he
    exact hop he
  | srsTmo k =>
    cases hu
    dsimp only [exec, execSrsTmo] at he
    split at he
    · exact hop he
    · cases he
  | _ => cases hi

/-- The host operations of a faulted unit answer `ERR_FAULT` and do nothing else. -/
theorem exec_host_of_fault (hi : isSendOrCansend i = true ∨ isStop i = true) (hu : instrUnit i = some u)
    (hf : (s.flags u).fault = true) : exec i s = .next (s.answer .errFault) := by
  obtain ⟨hhost, -, hstop⟩ := prologueOfEveryOperation
  rcases hi with hi | hi
  · exact (hhost i u s hi hu).1 hf
  · exact (hstop i u s hi hu).1 hf

/-- No operation of a faulted unit changes a register of the block. -/
theorem sameRegisters_of_fault (hu : instrUnit i = some u) (hf : (s.flags u).fault = true)
    (he : exec i s = .next t) : SameRegisters s t := by
  have host : isSendOrCansend i = true ∨ isStop i = true → SameRegisters s t := fun hi => by
    obtain rfl := Host.Outcome.next.inj ((exec_host_of_fault hi hu hf).symm.trans he)
    exact SameRegisters.refl
  rcases kind_of_instrUnit hu with hi | hi | hi
  · exact host (.inl hi)
  · rw [eq_of_exec_event_of_off hi hu (.inl hf) he]
    exact SameRegisters.refl
  · exact host (.inr hi)

/-- Settles O28: an operation of another unit leaves the registers of this one alone, and its own find the fault in the
first test. -/
theorem faultIsSticky : Obligations.FaultIsSticky := by
  refine ⟨fun i u s t hi hf he => ?_, fun i u s hu hf hi => exec_host_of_fault hi hu hf, fun i u s hu hf hi => ?_,
    fun s => ?_⟩
  · have hown : instrUnit i = some u → SameRegisters s t := fun hu => sameRegisters_of_fault hu hf he
    have hsame : SameUnit u s t := by
      by_cases hu : instrUnit i = some u
      · exact (hown hu).sameUnit u
      · exact exec_sameUnit hu hi he
    exact ⟨hsame.flags_eq, hsame, hown⟩
  · obtain ⟨en, ha⟩ := accepts_eq_eventAccepts s hi hu
    rw [ha]
    exact (eventAccepts_eq_false_iff u en s).2 (.inl hf)
  · exact ⟨_, rfl, by simp [RegistersReset, State.reset]⟩

/-! ## STOP (R356) -/

/-- A `STOP` of a healthy unit shuts it and answers `OK`, after reporting a send in progress. -/
theorem stopUnit_of_healthy (hf : (s.flags u).fault = false) (hw : s.wf u = true) :
    stopUnit u s = .next { s.shut u with outs := s.outs ++
      (if s.sendInProgress u then [.done u .errClosed, .ret (.status .ok)] else [.ret (.status .ok)]) } := by
  have houts : (s.shut u).outs = s.outs := by simp [State.shut]
  rcases stopUnit_cases u s with ⟨hf', _⟩ | ⟨_, hw', _⟩ | ⟨_, _, r, rfl, he⟩
  · cases hf.symm.trans hf'
  · cases hw.symm.trans hw'
  · rw [he, ← houts]
    split <;> simp [State.shut, State.answer, State.ret, State.emit]

/-- Only a unit with a state register can have a send in progress. -/
theorem sendInProgress_of_tag {tag : BitVec 2} (ht : s.tag u = some tag) :
    s.sendInProgress u = true ↔ tag = waitAck ∧ (s.flags u).closed = false := by
  simp [State.sendInProgress, ht]

/-- A `STOP` of a healthy stop-and-wait sender: the send in progress is the one it waits for an answer to. -/
theorem stopUnit_of_sender {tag : BitVec 2} (ht : s.tag u = some tag) (hf : (s.flags u).fault = false)
    (hw : s.wf u = true) : stopUnit u s = .next { s.shut u with outs := s.outs ++
      (if tag = waitAck ∧ (s.flags u).closed = false then [.done u .errClosed, .ret (.status .ok)]
      else [.ret (.status .ok)]) } := by
  rw [stopUnit_of_healthy hf hw]
  simp only [sendInProgress_of_tag ht]

/-- Settles O30: every unit's `STOP` is the one of R356, and only the three stop-and-wait senders have a send in
progress to report. -/
theorem stopClosesTheUnit : Obligations.StopClosesTheUnit := by
  intro s
  refine ⟨?swns, ?swnr, ?abps, ?abpr, ?pnas, ?pnar, ?gbns, ?gbnr, ?srs, ?srr⟩
  case swns | abps | pnas => exact fun hf hw => stopUnit_of_sender rfl hf hw
  case swnr => exact fun hf => stopUnit_of_healthy (u := .swnr) hf rfl
  case abpr => exact fun hf => stopUnit_of_healthy (u := .abpr) hf rfl
  case pnar => exact fun hf => stopUnit_of_healthy (u := .pnar) hf rfl
  case gbns => exact stopUnit_of_healthy (u := .gbns)
  case gbnr => exact stopUnit_of_healthy (u := .gbnr)
  case srs => exact stopUnit_of_healthy (u := .srs)
  case srr => exact stopUnit_of_healthy (u := .srr)

end Sys2Proof.Machine
end

section
/-! PROOFS. A block without fault never faults (60_exceptions.md R340, R342): O29. -/

namespace Sys2Proof.Machine

variable {u : ProtUnit} {s t : State} {i : Instr}

/-! ## A unit without fault -/

/-- The unit holds legal codes, is not faulted and has no cause. -/
def Healthy (u : ProtUnit) (s : State) : Prop :=
  s.wf u = true ∧ (s.flags u).fault = false ∧ (s.flags u).cause = 0

/-- It is read off the unit's own registers and the configuration. -/
theorem Healthy.congr (h : Healthy u s) (hu : SameUnit u s t) (hcfg : t.cfg = s.cfg) : Healthy u t := by
  cases u <;> simp only [SameUnit] at hu <;> simpa only [Healthy, State.flags, State.wf, hu, hcfg] using h

theorem healthy_resetBlock (u : ProtUnit) (hv : s.cfg.valid = true) : Healthy u s.resetBlock := by
  obtain ⟨-, hgbn⟩ := gbnW_of_valid hv
  obtain ⟨-, hsr⟩ := srW_of_valid hv
  refine ⟨?_, by simp, by simp⟩
  cases u with
  | swns | swnr | abps | abpr | pnas | pnar => rfl
  | gbns | gbnr => simp [State.wf, State.reset, Nat.zero_lt_of_lt hgbn]
  | srs | srr => simp [State.wf, State.reset, Nat.zero_lt_of_lt hsr]

theorem Healthy.emit (h : Healthy u s) (o : Output) : Healthy u (s.emit o) :=
  h.congr (by cases u <;> rfl) rfl

theorem Healthy.answer (h : Healthy u s) (x : Status) : Healthy u (s.answer x) :=
  h.emit (.ret (.status x))

/-- Closing writes neither the fault nor its cause. -/
theorem Healthy.shut (h : Healthy u s) : Healthy u (s.shut u) := by
  simpa [Healthy, State.shut] using h

/-! ## The prologue finds no illegal code -/

theorem Healthy.hostOperation {en : Bool} {body : State → State} (h : Healthy u s)
    (he : hostOperation u en body s = .next t) (run : Healthy u (body s)) : Healthy u t :=
  hostOperation_next (Healthy u) he h.answer (fun hw => absurd h.1 (by simp [hw])) h (fun _ _ => run)

theorem Healthy.eventOperation {en : Bool} {body : State → State} (h : Healthy u s)
    (he : eventOperation u en body s = .next t) (run : Healthy u (body s)) : Healthy u t :=
  eventOperation_next (Healthy u) he (fun hw => absurd h.1 (by simp [hw])) h (fun _ _ => run)

theorem Healthy.stopUnit (h : Healthy u s) (he : stopUnit u s = .next t) : Healthy u t :=
  stopUnit_next (Healthy u) he h.answer (fun hw => absurd h.1 (by simp [hw])) (h.shut.answer .ok)
    ((h.shut.emit (.done u .errClosed)).answer .ok)

/-! ## The windows move within their numbers -/

theorem healthy_of_gbnsMove {g : GbnSender} (h : Healthy .gbns s) (hm : GbnsMove s g) :
    Healthy .gbns { s with gbns := g } := by
  have ⟨hwf, hclear⟩ := h
  obtain ⟨ho, hn⟩ := gbn_legal hwf
  have hpos : 0 < s.cfg.gbnMax := Nat.zero_lt_of_lt ho
  cases hm with
  | same | restart | tick | shut => exact h
  | send => exact ⟨by simp [State.wf, ho, seqInc_lt _ _ hpos], hclear⟩
  | acknowledge => exact ⟨by simp [State.wf, GbnSender.acknowledge, hn, seqInc_lt _ _ hpos], hclear⟩
  | fault hbad => exact absurd hwf (by simp [hbad])

theorem healthy_of_srsMove {g : SrSender} (h : Healthy .srs s) (hm : SrsMove s g) :
    Healthy .srs { s with srs := g } := by
  have ⟨hwf, hclear⟩ := h
  obtain ⟨ho, hn⟩ := srs_legal hwf
  have hpos : 0 < s.cfg.srMax := Nat.zero_lt_of_lt ho
  cases hm with
  | same | restart | tick | shut => exact h
  | send => exact ⟨by simp [State.wf, ho, seqInc_lt _ _ hpos], hclear⟩
  | acknowledge q =>
    refine ⟨?_, hclear⟩
    obtain ⟨j, -, hslide, -⟩ :=
      slideBase_spec s.cfg.srMax s.srs.oldestUnacked s.srs.nextToSend (memWrite s.srs.frames q none) ho hn
    have hlt : (s.srs.oldestUnacked + j) % s.cfg.srMax < s.cfg.srMax := Nat.mod_lt _ hpos
    simp only [State.wf, SrSender.acknowledge, hslide, decide_eq_true hn, Bool.and_true, decide_eq_true_eq]
    split
    · exact hlt
    · exact ho
  | fault hbad => exact absurd hwf (by simp [hbad])

theorem healthy_srrAccept (hv : s.cfg.valid = true) (h : Healthy .srr s) (d : Bytes) :
    Healthy .srr (s.srrAccept d) := by
  have ⟨hwf, hclear⟩ := h
  have ho := srr_legal hwf
  obtain ⟨-, hm⟩ := srW_of_valid hv
  unfold State.srrAccept
  dsimp only
  split
  · obtain ⟨n, -, hbase, -⟩ := drain_spec s.cfg.srMax s.srr.oldestExpected s.cfg.srW
      (memWrite s.srr.reorder (seqOf d).toNat (some (textDec s.cfg.textDec (payloadS d)))) ho hm
    rw [deliverAll_eq]
    exact ⟨decide_eq_true (hbase ▸ Nat.mod_lt _ (Nat.zero_lt_of_lt ho)), hclear⟩
  · exact h

/-! ## Every operation -/

/-- No command of a unit without fault writes an illegal code or a status register other than `closed`. -/
theorem healthy_command (hv : s.cfg.valid = true) (hc : i.frame = none) (hu : instrUnit i = some u)
    (h : Healthy u s) (he : exec i s = .next t) : Healthy u t := by
  have ⟨hwf, hclear⟩ := h
  have hcfg : t.cfg = s.cfg := exec_cfg he
  cases i with
  | swnsSend p | abpsSend p | pnasSend p =>
    cases hu
    dsimp only [exec] at he
    refine h.hostOperation he ?_
    split
    · exact h
    · exact ⟨rfl, hclear⟩
  | swnsTmo =>
    cases hu
    dsimp only [exec] at he
    exact h.eventOperation he ⟨rfl, hclear⟩
  | swnsTick | abpsTick | pnasTick =>
    cases hu
    dsimp only [exec] at he
    exact h.eventOperation he h
  | swnsRx d | abpsTmo | pnasTmo =>
    cases hu
    dsimp only [exec] at he
    refine h.eventOperation he ?_
    simpa [Healthy, State.wf, State.flags, AltSender.restart] using h
  | abpsRx d =>
    cases hu
    dsimp only [exec] at he
    refine h.eventOperation he ?_
    split
    · exact ⟨rfl, hclear⟩
    · exact h
  | pnasRx d =>
    cases hu
    dsimp only [exec] at he
    refine h.eventOperation he ?_
    split
    · exact ⟨rfl, hclear⟩
    · simpa [Healthy, State.wf, State.flags, AltSender.restart] using h
  | swnrRx d | abprRx d =>
    cases hu
    dsimp only [exec] at he
    refine h.eventOperation he ?_
    split
    · exact h
    · exact h
  | pnarRx d =>
    cases hu
    dsimp only [exec] at he
    refine h.eventOperation he ?_
    split
    · exact h
    split
    · exact h
    · exact h
  | gbnsSend | gbnsRx | gbnsTmo | gbnsTick | gbnsCansend | gbnsStop =>
    cases hu
    exact (healthy_of_gbnsMove h (gbns_command hv hc rfl he)).congr rfl hcfg
  | srsSend | srsRx | srsTmo | srsTick | srsCansend | srsStop =>
    cases hu
    exact (healthy_of_srsMove h (srs_command hv hc rfl he)).congr rfl hcfg
  | gbnrRx d =>
    cases hu
    dsimp only [exec] at he
    refine h.eventOperation he ?_
    split
    · exact ⟨decide_eq_true (seqInc_lt _ _ (Nat.zero_lt_of_lt (of_decide_eq_true hwf))), hclear⟩
    · exact h.congr (txSlot_gbnr s _ _) (txSlot_cfg s _ _)
  | srrRx d =>
    cases hu
    dsimp only [exec] at he
    refine h.eventOperation he ?_
    dsimp only
    split
    · exact h
    split
    · exact healthy_srrAccept hv h d
    split
    · exact h.congr (txSlot_srr s _ _) (txSlot_cfg s _ _)
    · exact h
  | swnsStop | swnrStop | abpsStop | abprStop | pnasStop | pnarStop | gbnrStop | srrStop =>
    cases hu
    exact h.stopUnit he
  | wireN | wireS | nak0 | ack | nak => cases hc
  | _ => cases hu

/-- Settles O29: unit by unit, every command of a unit without fault leaves it without fault. -/
theorem noStepFaults : Obligations.NoStepFaults := fun s t hv h hs u =>
  step_keeps_unit u (Healthy u) (fun _ _ hu hcfg h => h.congr hu hcfg) (fun _ => healthy_resetBlock u)
    (fun _ _ _ hc hu _ hv h he => healthy_command hv hc hu h he) s t hv (h u) hs

end Sys2Proof.Machine
end

section
/-! PROOFS. Ticks and timers (60_exceptions.md R350 to R354, R357): O31 and O32. -/

namespace Sys2Proof.Machine

variable {s : State} {k : Nat}

/-! ## One tick (R353, R357) -/

/-- R353 as the rule is written: an armed timer with a count above 0 loses one. -/
theorem Timer.tick_eq (x : Timer) : x.tick = if x.armed = true ∧ x.cnt > 0 then ⟨true, x.cnt - 1⟩ else x := by
  obtain ⟨armed, cnt⟩ := x
  cases armed <;> simp [Timer.tick, Timer.running]

theorem exec_swnsTick_of_working (hw : Working .swns s) :
    exec .swnsTick s = .next { s with swns := { s.swns with timer := s.swns.timer.tick } } := by
  dsimp only [exec]
  exact eventOperation_of_enabled hw rfl

theorem exec_abpsTick_of_working (hw : Working .abps s) :
    exec .abpsTick s = .next { s with abps := { s.abps with timer := s.abps.timer.tick } } := by
  dsimp only [exec]
  exact eventOperation_of_enabled hw rfl

theorem exec_pnasTick_of_working (hw : Working .pnas s) :
    exec .pnasTick s = .next { s with pnas := { s.pnas with timer := s.pnas.timer.tick } } := by
  dsimp only [exec]
  exact eventOperation_of_enabled hw rfl

/-- Settles O31: a working unit's `TICK` ticks its timer, `SRS` each of its timers. -/
theorem ticksCountDown : Obligations.TicksCountDown := by
  intro s
  simp only [← Timer.tick_eq]
  refine ⟨exec_swnsTick_of_working, exec_abpsTick_of_working, exec_pnasTick_of_working, exec_gbnsTick_of_working,
    fun hw => ⟨_, exec_srsTick_of_working hw, fun k hk => ?_, fun k hk => ?_⟩⟩
  · rw [timerAt_tickAll, if_pos hk]
  · rw [timerAt_tickAll, if_neg (Nat.not_lt.2 hk)]

/-! ## Many ticks (R354) -/

/-- An operation that does nothing but tick a timer, done `n` times, ticks it `n` times: `set` puts the timer into the
state. -/
theorem execAll_ticks {i : Instr} {set : Timer → State} (h : ∀ x, exec i (set x) = .next (set x.tick)) (n : Nat)
    (x : Timer) : execAll (List.replicate n i) (set x) = .next (set (Timer.tick^[n] x)) := by
  induction n generalizing x with
  | zero => rfl
  | succ n ih =>
    rw [List.replicate_succ, execAll_cons (h x), Function.iterate_succ_apply]
    exact ih x.tick

/-- A running timer started at `T` has expired after `n` ticks exactly if `n` is at least `T`. -/
theorem Timer.expired_after_iff (T n : Nat) : Timer.expired ⟨true, T - n⟩ = true ↔ T ≤ n := by
  simp [Timer.expired, Nat.sub_eq_zero_iff_le]

theorem accepts_srsTmo_of_working (hw : Working .srs s) :
    accepts (.srsTmo k) s = (timerAt s.srs.timers k).expired :=
  eventAccepts_of_working hw _

/-- Where `set` puts the timer into the state, `tick` ticks it and `tmo` waits for it alone: started at `T`, it is at
`T - n` after `n` ticks, and the timeout is accepted exactly if `n` is at least `T`. -/
theorem tmo_accepted_after_ticks {tick tmo : Instr} {set : Timer → State} {T : Nat}
    (htick : ∀ x, exec tick (set x) = .next (set x.tick)) (htmo : ∀ x, accepts tmo (set x) = x.expired)
    (hs : s = set ⟨true, T⟩) (n : Nat) :
    ∃ t, execAll (List.replicate n tick) s = .next t ∧ t = set ⟨true, T - n⟩ ∧ (accepts tmo t = true ↔ T ≤ n) := by
  refine ⟨_, ?_, rfl, ?_⟩
  · rw [hs, execAll_ticks htick, Timer.tick_iterate_armed]
  · rw [htmo, Timer.expired_after_iff]

/-- Settles O32: in each sender `n` ticks are `n` ticks of its timer, in `SRS` of each timer. -/
theorem timerExpiresAtTheTthTick : Obligations.TimerExpiresAtTheTthTick := by
  refine ⟨fun T n s hw ht => ?_, fun T n s hw ht => ?_, fun T n s hw ht => ?_, fun T n s hw ht => ?_, fun n s hw => ?_⟩
  · exact tmo_accepted_after_ticks (tmo := .swnsTmo) (set := fun x => { s with swns := { s.swns with timer := x } })
      (fun _ => exec_swnsTick_of_working hw) (fun _ => eventAccepts_of_working (u := .swns) hw _) (by rw [← ht]) n
  · exact tmo_accepted_after_ticks (tmo := .abpsTmo) (set := fun x => { s with abps := { s.abps with timer := x } })
      (fun _ => exec_abpsTick_of_working hw) (fun _ => eventAccepts_of_working (u := .abps) hw _) (by rw [← ht]) n
  · exact tmo_accepted_after_ticks (tmo := .pnasTmo) (set := fun x => { s with pnas := { s.pnas with timer := x } })
      (fun _ => exec_pnasTick_of_working hw) (fun _ => eventAccepts_of_working (u := .pnas) hw _) (by rw [← ht]) n
  · exact tmo_accepted_after_ticks (tmo := .gbnsTmo) (set := fun x => { s with gbns := { s.gbns with timer := x } })
      (fun _ => exec_gbnsTick_of_working hw) (fun _ => eventAccepts_of_working (u := .gbns) hw _) (by rw [← ht]) n
  · refine ⟨_, _, execAll_srsTick n hw, rfl, fun k hk => ?_⟩
    have hcount := timerAt_tickAll_iterate n s.srs.timers hk
    have htmo := accepts_srsTmo_of_working (k := k)
      (s := { s with srs := { s.srs with timers := (tickAll s.cfg.srMax)^[n] s.srs.timers } }) hw
    refine ⟨fun T ht => ?_, fun hidle => ?_⟩
    · rw [ht, Timer.tick_iterate_armed] at hcount
      exact ⟨hcount, by rw [htmo, hcount, Timer.expired_after_iff]⟩
    · rw [Function.iterate_fixed (Timer.tick_of_not_armed hidle)] at hcount
      exact ⟨hcount, by rw [htmo, hcount, Timer.not_expired (.inl hidle)]⟩

end Sys2Proof.Machine
end

section
/-! PROOFS. What a step serves (00_scope.md R8, R12, 60_exceptions.md R345, R360 to R365): O4, O10 and O59. -/

namespace Sys2Proof.Machine

variable {s : State} {u : ProtUnit} {i : Instr} {o : Offer} {k : Nat} {flip : Option Nat} {d : Bytes}

/-! ## What can be served, and as what -/

theorem inRange_of_wellFormed {c : Cfg} (h : WellFormed c i = true) : i.inRange c = true := by
  simp only [WellFormed, Bool.and_eq_true] at h
  exact h.2

theorem servable_offer (hd : decode o = .instr i) (hr : i.inRange s.cfg = true) :
    servable s (.offer o) = accepts i s := by
  simp [servable, servableDecoded, hd, hr]

theorem serve_offer (hd : decode o = .instr i) (hr : i.inRange s.cfg = true) : serve s (.offer o) = .run i s := by
  simp [serve, runInRange, hd, hr]

theorem exec_rxInstr (u : ProtUnit) (d : Bytes) (s : State) : exec (rxInstr u d) s = arrive u d s := by
  cases u <;> rfl

theorem accepts_rxInstr (u : ProtUnit) (d : Bytes) (s : State) : accepts (rxInstr u d) s = s.rxAccepts u := by
  cases u <;> rfl

theorem inRange_rxInstr (u : ProtUnit) (d : Bytes) (c : Cfg) :
    (rxInstr u d).inRange c = decide (d.length ≤ c.frameMax) := by
  cases u <;> rfl

theorem accepts_of_frame (hi : i.frame = some (u, d)) (s : State) : accepts i s = s.rxAccepts u := by
  cases i with
  | wireN | wireS | nak0 | ack | nak => cases hi; rfl
  | _ => cases hi

/-- However a datagram is named by its layout, it is served as the `RX` of its unit (60_exceptions.md R345). -/
theorem decodeDatagram_serves_rx (u : ProtUnit) (d : Bytes) (s : State) :
    (decodeDatagram u d).inRange s.cfg = decide (d.length ≤ s.cfg.frameMax) ∧
    accepts (decodeDatagram u d) s = s.rxAccepts u ∧ exec (decodeDatagram u d) s = exec (rxInstr u d) s := by
  rcases Nat.lt_or_ge d.length (if u.isNakOnly then 1 else 2) with hshort | hlong
  · rw [decodeDatagram_of_short hshort]
    exact ⟨inRange_rxInstr u d s.cfg, accepts_rxInstr u d s, rfl⟩
  · obtain ⟨hframe, -⟩ := decodeDatagram_frame hlong
    obtain ⟨-, hrange, hexec⟩ := arrives_of_frame hframe
    exact ⟨hrange s.cfg, accepts_of_frame hframe s, (hexec s).trans (exec_rxInstr u d s).symm⟩

/-- The channel keeps the length of a datagram (R360). -/
theorem corrupt_length (flip : Option Nat) (d : Bytes) : (corrupt flip d).length = d.length := by
  cases flip with
  | none => rfl
  | some n => exact List.length_modify _ _ _

/-- A delivery can be served exactly while the unit takes datagrams. -/
theorem servable_deliver (hw : s.wire[k]? = some (u, d)) (hlen : d.length ≤ s.cfg.frameMax) :
    servable s (.deliver k flip) = s.rxAccepts u := by
  obtain ⟨hrange, haccept, -⟩ := decodeDatagram_serves_rx u (corrupt flip d) s
  rw [corrupt_length, decide_eq_true hlen] at hrange
  simp [servable, servableDecoded, hw, hrange, haccept]

theorem serve_deliver (hw : s.wire[k]? = some (u, d)) (hlen : d.length ≤ s.cfg.frameMax) :
    serve s (.deliver k flip) =
      .run (decodeDatagram u (corrupt flip d)) { s with wire := s.wire.eraseIdx k } := by
  obtain ⟨hrange, -, -⟩ := decodeDatagram_serves_rx u (corrupt flip d) { s with wire := s.wire.eraseIdx k }
  rw [corrupt_length, decide_eq_true hlen] at hrange
  simp [serve, runInRange, hw, hrange]

/-! ## The step -/

theorem step_of_run {t : State} (h : fetch s = .run i t) : step s = exec i t := by simp [step, h]

theorem step_of_moved {t : State} (h : fetch s = .moved t) : step s = .next t := by simp [step, h]

theorem step_of_stop {r : Refusal} (h : fetch s = .stop r) : step s = .refused r := by simp [step, h]

/-- An event that cannot be served waits in its place, and the one after it is served (A2). -/
theorem fetch_of_waiting {e e' : Event} {rest : List Event} (ha : s.agenda = e :: e' :: rest)
    (he : servable s e = false) (he' : servable s e' = true) :
    fetch s = serve { s with agenda := e :: rest } e' := by
  simp [fetch, ha, takeFirst, he, he']

/-- With nothing on the agenda that can be served, an expired timer is served, and without one nothing happens (A3). -/
theorem step_of_nothing_servable (h : takeFirst (servable s) s.agenda = none) :
    step s = (dueTimeout s).elim (.next s) fun i => exec i s := by
  unfold step fetch
  rw [h]
  cases dueTimeout s <;> rfl

theorem step_of_only_waiting {e : Event} (ha : s.agenda = [e]) (he : servable s e = false)
    (hdue : dueTimeout s = none) : step s = .next s := by
  rw [step_of_nothing_servable (by simp [ha, takeFirst, he]), hdue]
  rfl

/-- Settles O4: an offer can be served exactly if its operation is accepted, and is then that operation. -/
theorem stepServesTheOffer : Obligations.StepServesTheOffer := by
  refine ⟨fun s o rest i ha hd hwf hacc => ?_, fun s o o' rest i j ha hd hwf hheld hd' hwf' hacc => ?_,
    fun s o i ha hd hwf hheld hdue => ?_, fun s i ha hdue => ?_, fun s ha hdue => ?_⟩
  · have hr := inRange_of_wellFormed hwf
    exact step_of_run ((fetch_of_servable ha ((servable_offer hd hr).trans hacc)).trans (serve_offer hd hr))
  · have hr := inRange_of_wellFormed hwf
    have hr' := inRange_of_wellFormed hwf'
    exact step_of_run ((fetch_of_waiting ha ((servable_offer hd hr).trans hheld)
      ((servable_offer hd' hr').trans hacc)).trans (serve_offer hd' hr'))
  · exact step_of_only_waiting ha ((servable_offer hd (inRange_of_wellFormed hwf)).trans hheld) hdue
  · rw [step_of_nothing_servable (by rw [ha]; rfl), hdue]
    rfl
  · rw [step_of_nothing_servable (by rw [ha]; rfl), hdue]
    rfl

/-! ## Ports (R365) -/

/-- The agent of a code by its two digits: in a protocol unit by the function, otherwise the host (R365). -/
def portOfCode (n : Nat) : Agent :=
  if 3 ≤ n / 16 ∧ n / 16 ≤ 12 then
    (if n % 16 = 1 then .channel else if n % 16 = 2 then .timer else if n % 16 = 3 then .tick else .host)
  else .host

/-- Every row of the table of 30_encoding.md R112 names the agent of its digits. -/
theorem agent_of_rowOf {op : Byte} {f : Format} {a : Agent} (h : rowOf op = some (f, a)) :
    a = portOfCode op.toNat := by
  have htable : ∀ row ∈ commandTable, row.2.2 = portOfCode row.1 := by decide
  obtain ⟨before, after, hsplit, -⟩ := List.lookup_eq_some_iff.1 h
  exact htable (op.toNat, f, a) (by simp [hsplit])

/-- Settles O10: a message decodes only on the port of its code's row, and one that does not decode is refused. -/
theorem portsCarryTheirOperations : Obligations.PortsCarryTheirOperations := by
  refine ⟨fun a op args i h => ?_, fun s o rest r ha hd => ?_⟩
  · obtain ⟨op', args', f, heq, hrow, -⟩ := decodeCommand_eq_instr (msg := op :: args) h
    obtain ⟨rfl, rfl⟩ := List.cons.inj heq
    exact agent_of_rowOf hrow
  · have hfetch := fetch_of_servable ha (by simp [servable, servableDecoded, hd])
    exact step_of_stop (hfetch.trans (by simp [serve, hd]))

/-! ## The channel (R360, R362) -/

/-- Inverting bit `m` of a byte. -/
theorem getLsbD_xor_one_shiftLeft (v : Byte) {m j : Nat} (hj : j < 8) :
    (v ^^^ (1#8 <<< m)).getLsbD j = if j = m then !v.getLsbD j else v.getLsbD j := by
  rw [← BitVec.twoPow_eq, BitVec.getLsbD_xor, BitVec.getLsbD_twoPow]
  split
  · subst j
    simp [hj]
  · rename_i h
    simp [Ne.symm h]

theorem getD_flipBit (n : Nat) (d : Bytes) (k : Nat) :
    (flipBit n d).getD k 0 = if k = n / 8 ∧ k < d.length then d.getD k 0 ^^^ (1#8 <<< (n % 8)) else d.getD k 0 := by
  simp only [flipBit, List.getD_eq_getElem?_getD, List.getElem?_modify]
  by_cases hk : k < d.length
  · by_cases hn : n / 8 = k
    · simp [hk, hn]
    · simp [hk, hn, Ne.symm hn]
  · simp [hk]

/-- Exactly the named bit is inverted, where the datagram has it. -/
theorem getLsbD_flipBit (n : Nat) (d : Bytes) (k : Nat) {j : Nat} (hj : j < 8) :
    ((flipBit n d).getD k 0).getLsbD j =
      if k = n / 8 ∧ j = n % 8 ∧ k < d.length then !(d.getD k 0).getLsbD j else (d.getD k 0).getLsbD j := by
  rw [getD_flipBit]
  by_cases hk : k = n / 8 ∧ k < d.length
  · rw [if_pos hk, getLsbD_xor_one_shiftLeft _ hj]
    obtain ⟨rfl, hlt⟩ := hk
    simp only [hlt, true_and, and_true]
  · rw [if_neg hk, if_neg fun ⟨hn, _, hlt⟩ => hk ⟨hn, hlt⟩]

/-- A working unit takes datagrams, a stop-and-wait sender only while it waits for an answer. -/
theorem rxAccepts_of_working (hw : Working u s) :
    s.rxAccepts u = true ↔ u ∉ [ProtUnit.swns, .abps, .pnas] ∨ s.tag u = some waitAck := by
  have haccepts : s.rxAccepts u = s.rxEnabled u := eventAccepts_of_working hw _
  rw [haccepts]
  cases u <;> simp [State.rxEnabled, waitingTag, State.tag]

/-- Settles O59: a delivery is served as the unit's `RX` while the unit takes datagrams, and waits while it does not. -/
theorem channelDeliversAtMostOnce : Obligations.ChannelDeliversAtMostOnce := by
  refine ⟨fun s k flip rest u d ha hw hlen hacc => ?_, fun s k flip u d ha hw hlen hacc hdue => ?_,
    fun s k flip o rest u d j ha hw hlen hacc hd hwf hj => ?_, fun s u d => accepts_rxInstr u d s,
    fun s u hoff => ?_, fun s u hf hc hwf => ?_, fun s u hw => rxAccepts_of_working hw,
    fun s k rest ha => ?_, fun d => rfl, fun n d => ⟨corrupt_length _ d, fun k j hj => getLsbD_flipBit n d k hj⟩⟩
  · have hfetch := fetch_of_servable ha ((servable_deliver (flip := flip) hw hlen).trans hacc)
    obtain ⟨-, -, hexec⟩ := decodeDatagram_serves_rx u (corrupt flip d)
      { s with agenda := rest, wire := s.wire.eraseIdx k }
    exact (step_of_run (hfetch.trans (serve_deliver hw hlen))).trans hexec
  · exact step_of_only_waiting ha ((servable_deliver hw hlen).trans hacc) hdue
  · have hr := inRange_of_wellFormed hwf
    exact step_of_run ((fetch_of_waiting ha ((servable_deliver hw hlen).trans hacc)
      ((servable_offer hd hr).trans hj)).trans (serve_offer hd hr))
  · exact (eventAccepts_eq_false_iff u _ s).2 (hoff.imp_right .inl)
  · exact eventAccepts_of_illegal hf hc hwf _
  · exact step_of_moved (fetch_of_servable ha rfl)

end Sys2Proof.Machine
end

section
/-! PROOFS. A frame that has reached a unit takes effect as its `RX` (60_exceptions.md R345): O55. -/

namespace Sys2Proof.Machine

variable {i : Instr} {u : ProtUnit} {d : Bytes}

/-- A frame does what the `RX` of its unit does with the frame's bytes. -/
theorem exec_frame (hi : i.frame = some (u, d)) (s : State) : exec i s = exec (rxInstr u d) s := by
  obtain ⟨-, -, he⟩ := arrives_of_frame hi
  rw [he, exec_rxInstr]

/-- A frame with the text `NAK` is no acknowledgment, whatever its checksum (41_frame_codec.md R168). -/
theorem isAck_of_textNak (t : TextDecSel) (q c : Byte) : isAck t (q :: (textNak ++ [c])) = false := by
  have hne : textNak ≠ textAck := by decide
  simp [isAck, payloadS_cons_append, textDec_textNak, hne]

/-- Settles O55: each kind of frame is a case of the `RX` of its unit. -/
theorem arrivingFramesTakeEffect : Obligations.ArrivingFramesTakeEffect := by
  refine ⟨fun s p hw => ?_, fun s p hw => ?_, fun s f hw hs hf => ?_, fun s hw hs => ?_,
    fun s q c f hw hs hf => ?_, fun s u q c p => ⟨exec_frame rfl s, exec_frame rfl s, exec_frame rfl s,
      exec_frame (i := .nak0) (u := .swns) rfl s, exec_frame (i := .nak q c) (u := .pnas) rfl s⟩⟩
  · have hrx : exec (.wireN .swnr p (crcCompute p)) s = exec (.swnrRx (encodeN p)) s :=
      exec_frame (u := .swnr) (d := encodeN p) rfl s
    rw [hrx, exec_swnrRx_of_working hw, if_pos (validN_encodeN p), payloadN_encodeN]
    rfl
  · have hrx : exec (.wireS .abpr (seqByte s.abpr.expected) p (crcCompute (seqByte s.abpr.expected :: p))) s =
        exec (.abprRx (encodeS (seqByte s.abpr.expected) p)) s :=
      exec_frame (u := .abpr) (d := encodeS (seqByte s.abpr.expected) p) rfl s
    refine hrx.trans ?_
    rw [exec_abprRx_of_working hw, if_pos ⟨validS_encodeS _ p, seqOf_encodeS _ p⟩, payloadS_encodeS, deliver_tx]
    rfl
  · obtain ⟨-, -, -, hrx, -⟩ := nakOnlySender s [] nak0Frame hw
    exact hrx hs f hf
  · obtain ⟨-, -, -, hack, -⟩ := alternatingBitSender s [] (ackFrame (seqByte s.abps.seq)) hw
    exact hack hs (isAck_ackFrame _ _) (eq_seqByte_iff.1 rfl)
  · obtain ⟨-, -, -, -, hother, -⟩ := posNegSender s [] (q :: (textNak ++ [c])) hw
    exact hother hs (isAck_of_textNak _ q c) f hf

end Sys2Proof.Machine
end

section
/-! PROOFS. How the encoder of 30_encoding.md is undone by the decoders, operation by operation and frame by frame: O8
and O6. -/

namespace Sys2Proof

variable {u : ProtUnit} {i : Instr} {p : Bytes} {q c : Byte}

/-! ## Operands (30_encoding.md R113) -/

theorem bitOfByte_setWidth (b : BitVec 1) : bitOfByte (b.setWidth 8) = some b := by
  revert b
  decide

theorem zext8_toNat {n : Nat} (h : n ≤ 255) : (zext8 n).toNat = n := by
  rw [BitVec.toNat_ofNat, Nat.mod_eq_of_lt (Nat.lt_succ_of_le h)]

/-- The modulus 256, which no byte holds, comes back from the byte 00. -/
theorem modulusOfByte_byteOfModulus {m : Nat} (h1 : 1 ≤ m) (h256 : m ≤ 256) :
    modulusOfByte (byteOfModulus m) = m := by
  obtain rfl | hlt := h256.eq_or_lt
  · rfl
  · have hm : (byteOfModulus m).toNat = m := zext8_toNat (Nat.le_of_lt_succ hlt)
    have hne : byteOfModulus m ≠ 0 := fun h0 => by simp [h0] at hm; omega
    rw [modulusOfByte, if_neg hne, hm]

/-! ## Commands (30_encoding.md R110 to R113) -/

/-- What the row of an operation's code reads from its own operand bytes, the decoder reads from its message. -/
theorem decode_encode_of_row {op : Byte} {f : Format} {a : Agent} (hcode : i.code = some op) (hframe : i.frame = none)
    (hrow : rowOf op = some (f, a)) (hargs : decodeOperands f op.toNat i.operandBytes = some i) :
    decode (encode i) = .instr i := by
  simp [encode, hframe, hcode, issuerOf, hrow, decode, decodeCommand, hargs]

theorem decode_encode_crcShift (b : BitVec 1) : decode (encode (.crcShift b)) = .instr (.crcShift b) :=
  decode_encode_of_row rfl rfl rfl (congrArg (Option.map Instr.crcShift) (bitOfByte_setWidth b))

theorem decode_encode_srsTmo {k : Nat} (h : (Instr.srsTmo k).formed = true) :
    decode (encode (.srsTmo k)) = .instr (.srsTmo k) :=
  decode_encode_of_row rfl rfl rfl (congrArg (some ∘ Instr.srsTmo) (zext8_toNat (of_decide_eq_true h)))

theorem decode_encode_winTest {low high modulus value : Nat}
    (h : (Instr.winTest low high modulus value).formed = true) :
    decode (encode (.winTest low high modulus value)) = .instr (.winTest low high modulus value) := by
  simp only [Instr.formed, Bool.and_eq_true, decide_eq_true_eq] at h
  obtain ⟨⟨⟨⟨hmod, hmod'⟩, hlow⟩, hhigh⟩, hvalue⟩ := h
  refine decode_encode_of_row rfl rfl rfl ?_
  simp [Instr.operandBytes, decodeOperands, decodeOp4, modulusOfByte_byteOfModulus hmod hmod', zext8_toNat hvalue,
    zext8_toNat (n := low) (by omega), zext8_toNat (n := high) (by omega), hlow, hhigh]

/-- Every operation is read back from its message: three formats check or convert their operand bytes, the others take
them as they are. -/
theorem decode_encode_of_command (hi : i.formed = true) (hf : i.frame = none) : decode (encode i) = .instr i := by
  cases i with
  | crcShift b => exact decode_encode_crcShift b
  | srsTmo k => exact decode_encode_srsTmo hi
  | winTest low high modulus value => exact decode_encode_winTest hi
  | wireN | wireS | nak0 | ack | nak => cases hf
  | _ => exact decode_encode_of_row rfl rfl rfl rfl

/-! ## Datagrams (30_encoding.md R100 to R105) -/

/-- A formed `WIRE-N` frame is no `NAK0`. -/
theorem frameN_of_formed (h : (Instr.wireN u p c).formed = true) :
    u.isNakOnly = true ∧ frameN u p c = .wireN u p c := by
  simp only [Instr.formed, Bool.and_eq_true, Bool.not_eq_true', Bool.and_eq_false_iff, decide_eq_false_iff_not] at h
  obtain ⟨hu, hne⟩ := h
  exact ⟨hu, if_neg (by simpa [not_and_or, or_assoc, -not_and] using hne)⟩

/-- A formed `WIRE-S` frame is no `Ack(s)` and no `Nak(s)` at its unit. -/
theorem frameS_of_formed (h : (Instr.wireS u q p c).formed = true) :
    u.isNakOnly = false ∧ frameS u q p c = .wireS u q p c := by
  simp only [Instr.formed, Bool.and_eq_true, Bool.not_eq_true', Bool.and_eq_false_iff, decide_eq_false_iff_not] at h
  obtain ⟨⟨hu, hack⟩, hnak⟩ := h
  have hack' : ¬(u.takesAcks = true ∧ p = textAck) := by simpa [not_and_or, -not_and] using hack
  have hnak' : ¬(u = .pnas ∧ p = textNak) := not_and_or.2 hnak
  exact ⟨hu, (if_neg hack').trans (if_neg hnak')⟩

/-- The units that take acknowledgments are sequenced (R102). -/
theorem isNakOnly_of_takesAcks (h : u.takesAcks = true) : u.isNakOnly = false := by
  cases u with
  | swns | swnr => cases h
  | _ => rfl

/-- A formed frame is the name its unit's decoder gives to its bytes. -/
theorem decodeDatagram_of_formed {d : Bytes} (hi : i.formed = true) (hf : i.frame = some (u, d)) :
    decodeDatagram u d = i := by
  cases i with
  | wireN u p c =>
    cases hf
    obtain ⟨hu, hname⟩ := frameN_of_formed hi
    rw [decodeDatagram_of_nakOnly hu, hname]
  | wireS u q p c =>
    cases hf
    obtain ⟨hu, hname⟩ := frameS_of_formed hi
    rw [decodeDatagram_of_sequenced hu, hname]
  | nak0 => cases hf; rfl
  | ack u q c =>
    cases hf
    have hu : u.takesAcks = true := hi
    rw [decodeDatagram_of_sequenced (isNakOnly_of_takesAcks hu), frameS, if_pos ⟨hu, rfl⟩]
  | nak q c => cases hf; rfl
  | _ => cases hf

/-- Settles O8: an operation is read back by its row of the table, a frame by its unit's layout. -/
theorem decodeOfEncodeIsIdentity : Obligations.DecodeOfEncodeIsIdentity := fun i hi => by
  cases hf : i.frame with
  | none => exact decode_encode_of_command hi hf
  | some frame => rw [encode_of_frame hf, decode, decodeDatagram_of_formed hi hf]

/-- Settles O6: each word is the encoding of the operation or frame it stands for, so decoding gives that back. -/
theorem wordsDecodeToTheirOperations : Obligations.WordsDecodeToTheirOperations :=
  have back := decodeOfEncodeIsIdentity
  ⟨back .crcClr rfl, back (.crcShift 1) rfl, back (.frmEncs 3 [0x64]) rfl, back (.winTest 14 2 16 15) rfl,
    back (.swnsSend [0x68, 0x69]) rfl, back (.swnrRx [0x68]) rfl, back .abpsTick rfl,
    back (.abprRx [0x00, 0x78, 0x6F]) rfl, back .abprStop rfl, back .pnasStop rfl, back (.pnarRx [0x00, 0x68]) rfl,
    back .pnarStop rfl, back .gbnsCansend rfl, back .gbnrStop rfl, back (.srsTmo 1) rfl,
    back (.srrRx [0x00, 0x61, 0x20]) rfl, back .sysReset rfl, back (.wireN .swnr [0x68, 0x69] 0x45) rfl,
    back (.wireS .gbnr 0x00 [0x61] 0x20) rfl, back .nak0 rfl, back (.ack .gbns 0x02 0x53) rfl,
    back (.nak 0x00 0x12) rfl⟩

end Sys2Proof
end

section
/-! PROOFS. The reset state (70_reset_and_hazards.md R380, R381, 10_state.md R47): what resetting the block leaves, what
a block in that state accepts, and which invariants it meets: O1, O2 and O3. -/

namespace Sys2Proof.Machine

variable {s : State}

/-! ## Resetting the block (R380) -/

theorem registersReset_resetBlock (s : State) : RegistersReset s.resetBlock :=
  ⟨rfl, rfl, rfl, rfl, rfl, rfl, rfl, rfl, rfl, rfl, rfl⟩

/-- The reset input, first on the agenda, is served at once. -/
theorem step_of_resetInput {rest : List Event} (ha : s.agenda = .resetInput :: rest) :
    step s = .next (State.resetBlock { s with agenda := rest }) :=
  step_of_moved (fetch_of_servable ha rfl)

/-- Settles O1: both ways of resetting write the registers alone, and only `SYS.RESET` answers. -/
theorem sysResetRestoresEveryRegister : Obligations.SysResetRestoresEveryRegister := by
  refine ⟨decodeOfEncodeIsIdentity .sysReset rfl, fun s => ?_, fun s rest ha => ?_⟩
  · exact ⟨s.resetBlock.answer .ok, rfl, registersReset_resetBlock s, rfl, rfl, rfl, rfl, rfl⟩
  · exact ⟨_, step_of_resetInput ha, registersReset_resetBlock _, rfl, rfl, rfl⟩

/-! ## A block in the reset state (R381) -/

theorem sameUnit_of_registersReset (h : RegistersReset s) (u : ProtUnit) : SameUnit u s.resetBlock s := by
  obtain ⟨-, hswns, hswnr, habps, habpr, hpnas, hpnar, hgbns, hgbnr, hsrs, hsrr⟩ := h
  cases u with
  | swns => exact hswns
  | swnr => exact hswnr
  | abps => exact habps
  | abpr => exact habpr
  | pnas => exact hpnas
  | pnar => exact hpnar
  | gbns => exact hgbns
  | gbnr => exact hgbnr
  | srs => exact hsrs
  | srr => exact hsrr

/-- Every unit is open and healthy: 0 is a legal sequence number of every window. -/
theorem working_of_registersReset (hv : s.cfg.valid = true) (h : RegistersReset s) (u : ProtUnit) : Working u s := by
  obtain ⟨hwf, hfault, -⟩ := healthy_resetBlock u hv
  have hw : Working u s.resetBlock := ⟨hfault, by simp, hwf⟩
  exact hw.congr (sameUnit_of_registersReset h u) rfl

/-- Nothing is in flight, and the window holds at least one frame. -/
theorem gbnCanSend_of_registersReset (hv : s.cfg.valid = true) (h : RegistersReset s) : gbnCanSend s = true := by
  obtain ⟨-, -, hwf⟩ := working_of_registersReset hv h .gbns
  obtain ⟨-, -, -, -, -, -, -, hgbns, -⟩ := h
  obtain ⟨hw, -⟩ := gbnW_of_valid hv
  rwa [gbnCanSend_iff hv hwf, (gbnInFlight_eq_zero_iff hwf).2 (by rw [hgbns])]

theorem srCanSend_of_registersReset (hv : s.cfg.valid = true) (h : RegistersReset s) : srCanSend s = true := by
  obtain ⟨-, -, hwf⟩ := working_of_registersReset hv h .srs
  obtain ⟨-, -, -, -, -, -, -, -, -, hsrs, -⟩ := h
  obtain ⟨hw, -⟩ := srW_of_valid hv
  rwa [srCanSend_iff hv hwf, (srInFlight_eq_zero_iff hwf).2 (by rw [hsrs])]

/-- What is enabled is accepted, in whatever condition the unit is. -/
theorem hostAccepts_of_enabled {u : ProtUnit} {en : Bool} (h : en = true) : hostAccepts u en s = true := by
  rw [h, hostAccepts_true]

/-- A working unit takes no timeout of a timer that is not armed. -/
theorem eventAccepts_eq_false_of_not_armed {u : ProtUnit} {x : Timer} (hw : Working u s) (hx : x.armed = false) :
    eventAccepts u x.expired s = false := by
  rw [eventAccepts_of_working hw, Timer.not_expired (.inl hx)]

/-- Settles O2: every unit works, every sender is idle with an empty window, and no timer is armed. -/
theorem freshBlockAcceptsSends : Obligations.FreshBlockAcceptsSends := by
  intro s p k h hv
  have work := working_of_registersReset hv h
  have hgbn := gbnCanSend_of_registersReset hv h
  have hsr := srCanSend_of_registersReset hv h
  obtain ⟨-, hswns, -, habps, habpr, hpnas, hpnar, hgbns, hgbnr, hsrs, hsrr⟩ := h
  refine ⟨?_, ?_, ?_, ?_, ?_, ?_, ?_, ?_, ?_, ?_, ?_, ?_, by rw [habpr], by rw [hpnar], by rw [hgbnr], by rw [hsrr]⟩
  · exact hostAccepts_of_enabled (idleTag_of_waitSend (by rw [hswns]))
  · exact hostAccepts_of_enabled (idleTag_of_waitSend (by rw [habps]))
  · exact hostAccepts_of_enabled (idleTag_of_waitSend (by rw [hpnas]))
  · exact hostAccepts_of_enabled hgbn
  · exact hostAccepts_of_enabled hsr
  · rw [exec_gbnsCansend_of_working (work .gbns), hgbn]; rfl
  · rw [exec_srsCansend_of_working (work .srs), hsr]; rfl
  · exact eventAccepts_eq_false_of_not_armed (work .swns) (by rw [hswns])
  · exact eventAccepts_eq_false_of_not_armed (work .abps) (by rw [habps])
  · exact eventAccepts_eq_false_of_not_armed (work .pnas) (by rw [hpnas])
  · exact eventAccepts_eq_false_of_not_armed (work .gbns) (by rw [hgbns])
  · exact eventAccepts_eq_false_of_not_armed (work .srs) (by rw [hsrs, timerAt_nil])

/-! ## The state the model starts from (10_state.md R47) -/

theorem cfg_valid_of_reset : State.reset.cfg.valid = true := by decide

theorem sizesFit_reset : SizesFit State.reset :=
  (sizesFit_iff cfg_valid_of_reset).2 ⟨fits_of_reset _ _, fits_of_reset _ _, fits_of_reset _ _,
    ⟨slotsFit_nil _, Nat.zero_le _⟩, ⟨slotsFit_nil _, timersFit_nil _⟩, slotsFit_nil _⟩

/-- Settles O3: its configuration is one of this hardware, and under every such configuration reset registers meet the
invariants. -/
theorem resetStateMeetsInvariants : Obligations.ResetStateMeetsInvariants := by
  have hreset : RegistersReset State.reset := registersReset_resetBlock State.reset
  have hv := cfg_valid_of_reset
  refine ⟨hreset, hv, ?_, ?_, ?_, ?_, ?_, ?_, sizesFit_reset⟩
  · exact memory_wf_iff.2 fun u => canonical_resetBlock u State.reset
  · exact fun u => healthy_resetBlock (s := State.reset) u hv
  · exact gbnsInv_of_reset rfl hv
  · exact srsInv_of_reset rfl hv
  · exact srrInv_of_reset rfl hv
  · obtain ⟨holds, -⟩ := stopAndWaitInvariantKept
    exact holds State.reset hv hreset

end Sys2Proof.Machine
end
